-- ==== Sys2Proof/Word.lean ====
section
/-!
DEFINITION. The machine's value types and the largest counter value.
Widths: 00_scope.md R8 (CYC_W = 32, EP_W = 32), 10_state.md R28 and R36 (channels of 16 bits),
20_memory.md R50 (bytes). Every value is unsigned (R9).
-/

namespace Sys2Proof

/-- One byte of a payload, of a frame image or of a serialised record. -/
abbrev Byte := BitVec 8

/-- A cycle count: `u.cyc`, `enc.acc`, `enc.deadline` and Δ (R8: CYC_W = 32; R72). -/
abbrev Cyc := BitVec 32

/-- One channel of a frame, in µs (R28, R36). -/
abbrev Chan := BitVec 16

/-- An endpoint identifier (R8: EP_W = 32). -/
abbrev Endpoint := BitVec 32

/-- CYC_MAX = 2^CYC_W − 1, the largest counter value (R8). -/
def cycMax : Nat := 4294967295

end Sys2Proof
end

