-- ==== Sys2Proof/Config.lean ====
section
/-!
DEFINITION. The constants of 00_scope.md R5 to R7, the parameters R8 leaves open, and the draw of the
input pin at the start of a run (10_state.md R31).

An open parameter is an uninterpreted constant: nothing proves a value of it (log 1). The raw
constants below are chosen so that the parameters range over exactly the values R8 allows.
-/

namespace Sys2Proof

/-- LEN_POLICY (R8, 43_bridge.md R192): what the encoder bridge does with a message whose length is not 24. -/
inductive LenPolicy where
  /-- REJECT, the spec's default: such a message is discarded. -/
  | reject
  /-- PARTIAL: its first min(len, 24) bytes are copied. -/
  | partialCopy
  deriving DecidableEq, Repr, Inhabited

/-- The parameters of R8, "a named argument of the model". -/
structure Params where
  /-- CPU, cycles per microsecond. -/
  cpu : Nat
  /-- LAT_MAX, the largest number of cycles between two steps of one unit. -/
  latMax : Nat
  /-- Q_IN_CAP, capacity of each inbound queue. -/
  qInCap : Nat
  /-- Q_OUT_CAP, capacity of the decoder's outbound queue. -/
  qOutCap : Nat
  /-- MSG_MAX, the largest payload in bytes. -/
  msgMax : Nat
  /-- DEC_PORT, the decoder's endpoint. -/
  decPort : Endpoint
  /-- ENC_PORT, the encoder's endpoint. -/
  encPort : Endpoint
  /-- LEN_POLICY. -/
  lenPolicy : LenPolicy
  deriving DecidableEq, Repr

/-- The constraints R8 puts on the parameters. -/
abbrev Params.Legal (p : Params) : Prop :=
  1 ≤ p.cpu ∧ p.cpu ≤ 190887 ∧ 1 ≤ p.latMax ∧ 1 ≤ p.qInCap ∧ 1 ≤ p.qOutCap ∧ 24 ≤ p.msgMax ∧
    p.decPort ≠ p.encPort

namespace Config

/-- CPU − 1: CPU is OPEN with 1 ≤ CPU ≤ 190887 (R8, log 1). -/
opaque cpuRaw : Fin 190887

/-- LAT_MAX − 1: LAT_MAX is OPEN with LAT_MAX ≥ 1 (R8, log 1). -/
opaque latMaxRaw : Nat

/-- Q_IN_CAP − 1: Q_IN_CAP is OPEN with Q_IN_CAP ≥ 1 (R8, log 1). -/
opaque qInCapRaw : Nat

/-- Q_OUT_CAP − 1: Q_OUT_CAP is OPEN with Q_OUT_CAP ≥ 1 (R8, log 1). -/
opaque qOutCapRaw : Nat

/-- MSG_MAX − 24: MSG_MAX is OPEN with MSG_MAX ≥ 24 (R8, log 1). -/
opaque msgMaxRaw : Nat

/-- DEC_PORT, OPEN (R8, log 1). -/
opaque decPortRaw : Endpoint

/-- ENC_PORT − DEC_PORT − 1 modulo 2^32, less than 2^32 − 1: the two ports are distinct (R8, log 1). -/
opaque portGapRaw : Fin 4294967295

/-- LEN_POLICY, REJECT or PARTIAL (R8, log 1). -/
opaque lenPolicyRaw : LenPolicy

/-- The level of `dec.pin_in` at the start of a run: "a draw, either 0 or 1" (R31, log 2). -/
opaque pinAtStart : Bool

/-- The machine's parameters, any values R8 allows. -/
def params : Params where
  cpu := cpuRaw.val + 1
  latMax := latMaxRaw + 1
  qInCap := qInCapRaw + 1
  qOutCap := qOutCapRaw + 1
  msgMax := msgMaxRaw + 24
  decPort := decPortRaw
  encPort := decPortRaw + 1#32 + BitVec.ofNat 32 portGapRaw.val
  lenPolicy := lenPolicyRaw

/-- PEER_RESET = 0, the reset value of `dec.peer` (R8). -/
def peerReset : Endpoint := 0#32

/-- N_CH (R5). -/
def nCh : Nat := 12

/-- CH_MIN in µs (R5). -/
def chMin : Nat := 1000

/-- CH_MAX in µs (R5). -/
def chMax : Nat := 2000

/-- PULSE_US (R5). -/
def pulseUs : Nat := 300

/-- SLOP_US (R5). -/
def slopUs : Nat := 20

/-- FRAME_US (R5). -/
def frameUs : Nat := 22500

/-- MAX_GAP_US = (CH_MAX − PULSE_US) + SLOP_US (R6). -/
def maxGapUs : Nat := (chMax - pulseUs) + slopUs

/-- MAX_PULSE_US = PULSE_US + SLOP_US (R6). -/
def maxPulseUs : Nat := pulseUs + slopUs

end Config

/-- PULSE_C = PULSE_US · CPU (R7). -/
def Params.pulseC (p : Params) : Nat := Config.pulseUs * p.cpu

/-- MAX_GAP_C = MAX_GAP_US · CPU (R7). -/
def Params.maxGapC (p : Params) : Nat := Config.maxGapUs * p.cpu

/-- MAX_PULSE_C = MAX_PULSE_US · CPU (R7). -/
def Params.maxPulseC (p : Params) : Nat := Config.maxPulseUs * p.cpu

/-- FRAME_C = FRAME_US · CPU (R7). -/
def Params.frameC (p : Params) : Nat := Config.frameUs * p.cpu

end Sys2Proof
end

