-- ==== Sys2Proof/Syntax.lean ====
section
/-!
DEFINITION. The instructions: one constructor for each row of spec/opcode_table.json. The ACT rows are the
agents' actions (30_encoding.md R71). A selector row (DSEL, ESEL, BSEL, MSEL, CSEL; R74 to R80) is one case of
a step, with the operands its rule lists (log 4). Also the message record and the names of the cases.
-/

namespace Sys2Proof

/-- The two units (00_scope.md R2), the U bit of an action word (R71). -/
inductive UnitId where
  | dec
  | enc
  deriving DecidableEq, Repr

/-- A message record (20_memory.md R68, 30_encoding.md R81). `len` is an integer, and `data` should have
exactly `len` bytes: a SEND whose operand breaks that is refused (R72). -/
structure Message where
  src : Endpoint
  dst : Endpoint
  len : Nat
  data : List Byte
  deriving DecidableEq, Repr

/-- The rows of spec/opcode_table.json. -/
inductive Instr where
  /-- DEC_STEP(Δ), R121. -/
  | decStep (delta : Cyc)
  /-- ENC_STEP(Δ), R151. -/
  | encStep (delta : Cyc)
  /-- ENV_RESET_DEC, R230. -/
  | envResetDec
  /-- ENV_READY_DEC, R233. -/
  | envReadyDec
  /-- ENV_SEND_DEC(m), R193. -/
  | envSendDec (m : Message)
  /-- ENV_KICK_DEC, R195. -/
  | envKickDec
  /-- ENV_RECV_DEC, R197. -/
  | envRecvDec
  /-- ENV_PIN_DEC(level), R136; the level stands in one byte of the record (R73). -/
  | envPinDec (level : Byte)
  /-- ENV_RESET_ENC, R231. -/
  | envResetEnc
  /-- ENV_READY_ENC, R234. -/
  | envReadyEnc
  /-- ENV_SEND_ENC(m), R194. -/
  | envSendEnc (m : Message)
  /-- ENV_KICK_ENC, R196. -/
  | envKickEnc
  /-- DEC_IDLE_LOW, R126. -/
  | decIdleLow
  /-- DEC_IDLE_HIGH, R127. -/
  | decIdleHigh
  /-- DEC_RISE_GAP, R128. -/
  | decRiseGap
  /-- DEC_RISE_CHAN, R129. -/
  | decRiseChan
  /-- DEC_FALL_OK, R131. -/
  | decFallOk
  /-- DEC_FALL_LONG, R132. -/
  | decFallLong
  /-- ENC_WAIT, R155. -/
  | encWait
  /-- ENC_RISE, R156. -/
  | encRise
  /-- ENC_FALL_FIRST, R157. -/
  | encFallFirst
  /-- ENC_FALL_CHAN, R158. -/
  | encFallChan
  /-- ENC_FALL_PAD, R159. -/
  | encFallPad
  /-- DEC_BRIDGE_IDLE, R183. -/
  | decBridgeIdle
  /-- DEC_BRIDGE_SERVICE, R184. -/
  | decBridgeService
  /-- ENC_BRIDGE_IDLE, R188. -/
  | encBridgeIdle
  /-- ENC_BRIDGE_SERVICE, R189. -/
  | encBridgeService
  /-- DEC_MSG_DISCARD(m), R185. -/
  | decMsgDiscard (m : Message)
  /-- ENC_MSG_APPLY(m), R190. -/
  | encMsgApply (m : Message)
  /-- ENC_MSG_REJECT(m), R191. -/
  | encMsgReject (m : Message)
  /-- CTR_TICK(u, Δ), R103. -/
  | ctrTick (u : UnitId) (delta : Cyc)
  /-- CTR_READ(u), R102. -/
  | ctrRead (u : UnitId)
  /-- CTR_RESET_TICK(u, Δ), R104. -/
  | ctrResetTick (u : UnitId) (delta : Cyc)
  deriving DecidableEq, Repr

/-- The encoding formats of the table (R70). -/
inductive Format where
  | act
  | dsel
  | esel
  | bsel
  | msel
  | csel
  deriving DecidableEq, Repr

/-- The twelve actions of the ACT format (R71), without their operands. -/
inductive Act where
  | decStep
  | encStep
  | envResetDec
  | envReadyDec
  | envSendDec
  | envKickDec
  | envRecvDec
  | envPinDec
  | envResetEnc
  | envReadyEnc
  | envSendEnc
  | envKickEnc
  deriving DecidableEq, Repr

/-- The six cases of a decoder step (R74). -/
inductive DecCase where
  | idleLow
  | idleHigh
  | riseGap
  | riseChan
  | fallOk
  | fallLong
  deriving DecidableEq, Repr

/-- The five cases of an encoder step (R76). -/
inductive EncCase where
  | wait
  | rise
  | fallFirst
  | fallChan
  | fallPad
  deriving DecidableEq, Repr

/-- The four cases of a bridge part (R79). -/
inductive BridgeCase where
  | decIdle
  | decService
  | encIdle
  | encService
  deriving DecidableEq, Repr

/-- The three treatments of a drained message (R78). -/
inductive MsgCase where
  | decDiscard
  | encApply
  | encReject
  deriving DecidableEq, Repr

/-- The three counter operations (R80). -/
inductive CtrCase where
  | tick
  | read
  | resetTick
  deriving DecidableEq, Repr

/-- The format of an instruction's row in the table. -/
def Instr.format : Instr → Format
  | .decStep _ => .act
  | .encStep _ => .act
  | .envResetDec => .act
  | .envReadyDec => .act
  | .envSendDec _ => .act
  | .envKickDec => .act
  | .envRecvDec => .act
  | .envPinDec _ => .act
  | .envResetEnc => .act
  | .envReadyEnc => .act
  | .envSendEnc _ => .act
  | .envKickEnc => .act
  | .decIdleLow => .dsel
  | .decIdleHigh => .dsel
  | .decRiseGap => .dsel
  | .decRiseChan => .dsel
  | .decFallOk => .dsel
  | .decFallLong => .dsel
  | .encWait => .esel
  | .encRise => .esel
  | .encFallFirst => .esel
  | .encFallChan => .esel
  | .encFallPad => .esel
  | .decBridgeIdle => .bsel
  | .decBridgeService => .bsel
  | .encBridgeIdle => .bsel
  | .encBridgeService => .bsel
  | .decMsgDiscard _ => .msel
  | .encMsgApply _ => .msel
  | .encMsgReject _ => .msel
  | .ctrTick _ _ => .csel
  | .ctrRead _ => .csel
  | .ctrResetTick _ _ => .csel

end Sys2Proof
end

