-- ==== Sys2Proof/Decode.lean ====
section
/-!
DEFINITION. The encodings of 30_encoding.md: the 5-bit action words (R71, R89), the serialised action records
AREC (R73), the selector words (R74 to R80), and the encoders of the same tables. Decoding is total: what the
spec does not encode is rejected by name (R85, R86).
-/

namespace Sys2Proof

/-! ## Little-endian byte strings -/

/-- `n` bytes of `v`, least significant first. -/
def leBytes : Nat → Nat → List Byte
  | 0, _ => []
  | n + 1, v => BitVec.ofNat 8 v :: leBytes n (v / 256)

/-- The value of the first `n` bytes, least significant first, and the bytes after them. -/
def takeLe : Nat → List Byte → Option (Nat × List Byte)
  | 0, bs => some (0, bs)
  | _ + 1, [] => none
  | n + 1, b :: bs =>
    match takeLe n bs with
    | none => none
    | some (v, rest) => some (b.toNat + 256 * v, rest)

/-- The first `n` bytes and the bytes after them. -/
def takeBytes : Nat → List Byte → Option (List Byte × List Byte)
  | 0, bs => some ([], bs)
  | _ + 1, [] => none
  | n + 1, b :: bs =>
    match takeBytes n bs with
    | none => none
    | some (data, rest) => some (b :: data, rest)

/-! ## Action words (format ACT) -/

/-- The action of a word, or none where R85 reserves it. E = w[4], U = w[3], A = w[2:0] (R71, R89). -/
def decodeAct (w : BitVec 5) : Option Act :=
  match w.getLsbD 4, w.getLsbD 3, w.toNat % 8 with
  | false, false, 0 => some .decStep
  | false, true, 0 => some .encStep
  | true, false, 0 => some .envResetDec
  | true, false, 1 => some .envReadyDec
  | true, false, 2 => some .envSendDec
  | true, false, 3 => some .envKickDec
  | true, false, 4 => some .envRecvDec
  | true, false, 5 => some .envPinDec
  | true, true, 0 => some .envResetEnc
  | true, true, 1 => some .envReadyEnc
  | true, true, 2 => some .envSendEnc
  | true, true, 3 => some .envKickEnc
  | _, _, _ => none

/-- The word of an action (R71). -/
def Act.word : Act → BitVec 5
  | .decStep => 0b00000#5
  | .encStep => 0b01000#5
  | .envResetDec => 0b10000#5
  | .envReadyDec => 0b10001#5
  | .envSendDec => 0b10010#5
  | .envKickDec => 0b10011#5
  | .envRecvDec => 0b10100#5
  | .envPinDec => 0b10101#5
  | .envResetEnc => 0b11000#5
  | .envReadyEnc => 0b11001#5
  | .envSendEnc => 0b11010#5
  | .envKickEnc => 0b11011#5

/-! ## Selector words -/

/-- DSEL (R74): bit 2 is L, bit 1 is C, bit 0 is T. All 8 patterns are used. -/
def decodeDsel (w : BitVec 3) : DecCase :=
  match w.getLsbD 2, w.getLsbD 1, w.getLsbD 0 with
  | false, false, _ => .idleLow
  | true, true, _ => .idleHigh
  | false, true, true => .riseGap
  | false, true, false => .riseChan
  | true, false, false => .fallOk
  | true, false, true => .fallLong

/-- The DSEL word of a case, with 0 for a bit the table leaves out. -/
def DecCase.word : DecCase → BitVec 3
  | .idleLow => 0b000#3
  | .idleHigh => 0b110#3
  | .riseGap => 0b011#3
  | .riseChan => 0b010#3
  | .fallOk => 0b100#3
  | .fallLong => 0b101#3

/-- ESEL (R76): bits 3 to 0 are H, N, F, Z. Every pattern with F = 1 and Z = 1 is unreachable and refused
(R77, R85, R86; log 11). -/
def decodeEsel (w : BitVec 4) : Option EncCase :=
  match w.getLsbD 3, w.getLsbD 2, w.getLsbD 1, w.getLsbD 0 with
  | _, _, true, true => none
  | false, _, _, _ => some .wait
  | true, true, _, _ => some .rise
  | true, false, false, true => some .fallFirst
  | true, false, false, false => some .fallChan
  | true, false, true, false => some .fallPad

/-- The ESEL word of a case, with 0 for a bit the table leaves out. -/
def EncCase.word : EncCase → BitVec 4
  | .wait => 0b0000#4
  | .rise => 0b1100#4
  | .fallFirst => 0b1001#4
  | .fallChan => 0b1000#4
  | .fallPad => 0b1010#4

/-- BSEL (R79): bit 1 is U, bit 0 is K. -/
def decodeBsel (w : BitVec 2) : BridgeCase :=
  match w.getLsbD 1, w.getLsbD 0 with
  | false, false => .decIdle
  | false, true => .decService
  | true, false => .encIdle
  | true, true => .encService

/-- The BSEL word of a case. -/
def BridgeCase.word : BridgeCase → BitVec 2
  | .decIdle => 0b00#2
  | .decService => 0b01#2
  | .encIdle => 0b10#2
  | .encService => 0b11#2

/-- MSEL (R78): bit 1 is U, bit 0 is A, which DEC does not use. -/
def decodeMsel (w : BitVec 2) : MsgCase :=
  match w.getLsbD 1, w.getLsbD 0 with
  | false, _ => .decDiscard
  | true, true => .encApply
  | true, false => .encReject

/-- The MSEL word of a case, with 0 for a bit the table leaves out. -/
def MsgCase.word : MsgCase → BitVec 2
  | .decDiscard => 0b00#2
  | .encApply => 0b11#2
  | .encReject => 0b10#2

/-- CSEL (R80). Code 11 is reserved (R85). -/
def decodeCsel (w : BitVec 2) : Option CtrCase :=
  match w.getLsbD 1, w.getLsbD 0 with
  | false, false => some .tick
  | false, true => some .read
  | true, false => some .resetTick
  | true, true => none

/-- The CSEL word of an operation. -/
def CtrCase.word : CtrCase → BitVec 2
  | .tick => 0b00#2
  | .read => 0b01#2
  | .resetTick => 0b10#2

/-! ## Words of every row, with the operands that stand outside the word -/

/-- The operands an instruction may have beside its word: the unit and Δ, the level, the message. -/
structure Operands where
  unit : UnitId
  delta : Cyc
  level : Byte
  msg : Message
  deriving DecidableEq, Repr

/-- The instruction of an action with the operands R72 gives it. -/
def Act.instr (o : Operands) : Act → Instr
  | .decStep => .decStep o.delta
  | .encStep => .encStep o.delta
  | .envResetDec => .envResetDec
  | .envReadyDec => .envReadyDec
  | .envSendDec => .envSendDec o.msg
  | .envKickDec => .envKickDec
  | .envRecvDec => .envRecvDec
  | .envPinDec => .envPinDec o.level
  | .envResetEnc => .envResetEnc
  | .envReadyEnc => .envReadyEnc
  | .envSendEnc => .envSendEnc o.msg
  | .envKickEnc => .envKickEnc

/-- The instruction of a decoder case. -/
def DecCase.instr : DecCase → Instr
  | .idleLow => .decIdleLow
  | .idleHigh => .decIdleHigh
  | .riseGap => .decRiseGap
  | .riseChan => .decRiseChan
  | .fallOk => .decFallOk
  | .fallLong => .decFallLong

/-- The instruction of an encoder case. -/
def EncCase.instr : EncCase → Instr
  | .wait => .encWait
  | .rise => .encRise
  | .fallFirst => .encFallFirst
  | .fallChan => .encFallChan
  | .fallPad => .encFallPad

/-- The instruction of a bridge case. -/
def BridgeCase.instr : BridgeCase → Instr
  | .decIdle => .decBridgeIdle
  | .decService => .decBridgeService
  | .encIdle => .encBridgeIdle
  | .encService => .encBridgeService

/-- The instruction of a message case. -/
def MsgCase.instr (o : Operands) : MsgCase → Instr
  | .decDiscard => .decMsgDiscard o.msg
  | .encApply => .encMsgApply o.msg
  | .encReject => .encMsgReject o.msg

/-- The instruction of a counter operation. -/
def CtrCase.instr (o : Operands) : CtrCase → Instr
  | .tick => .ctrTick o.unit o.delta
  | .read => .ctrRead o.unit
  | .resetTick => .ctrResetTick o.unit o.delta

/-- The instruction that a word of a format stands for, with its operands; none where the spec reserves
the word (R85). The word of a selector row is never in a record (R70). -/
def decodeIn (f : Format) (w : Nat) (o : Operands) : Option Instr :=
  match f with
  | .act => (decodeAct (BitVec.ofNat 5 w)).map (Act.instr o)
  | .dsel => some (decodeDsel (BitVec.ofNat 3 w)).instr
  | .esel => (decodeEsel (BitVec.ofNat 4 w)).map EncCase.instr
  | .bsel => some (decodeBsel (BitVec.ofNat 2 w)).instr
  | .msel => some ((decodeMsel (BitVec.ofNat 2 w)).instr o)
  | .csel => (decodeCsel (BitVec.ofNat 2 w)).map (CtrCase.instr o)

/-- The word of an instruction in the format of its row, with 0 for a bit the row leaves out. -/
def Instr.word : Instr → Nat
  | .decStep _ => 0x00
  | .encStep _ => 0x08
  | .envResetDec => 0x10
  | .envReadyDec => 0x11
  | .envSendDec _ => 0x12
  | .envKickDec => 0x13
  | .envRecvDec => 0x14
  | .envPinDec _ => 0x15
  | .envResetEnc => 0x18
  | .envReadyEnc => 0x19
  | .envSendEnc _ => 0x1A
  | .envKickEnc => 0x1B
  | .decIdleLow => 0x0
  | .decIdleHigh => 0x6
  | .decRiseGap => 0x3
  | .decRiseChan => 0x2
  | .decFallOk => 0x4
  | .decFallLong => 0x5
  | .encWait => 0x0
  | .encRise => 0xC
  | .encFallFirst => 0x9
  | .encFallChan => 0x8
  | .encFallPad => 0xA
  | .decBridgeIdle => 0x0
  | .decBridgeService => 0x1
  | .encBridgeIdle => 0x2
  | .encBridgeService => 0x3
  | .decMsgDiscard _ => 0x0
  | .encMsgApply _ => 0x3
  | .encMsgReject _ => 0x2
  | .ctrTick _ _ => 0x0
  | .ctrRead _ => 0x1
  | .ctrResetTick _ _ => 0x2

/-! ## Serialised action records (format AREC) -/

/-- Why the front of a byte string is no record (R73, R85). -/
inductive Reject where
  /-- There is no byte at all. -/
  | empty
  /-- Bits [7:5] of byte 0 are not 0. -/
  | highBits (b : Byte)
  /-- Bits [4:0] of byte 0 are a reserved word. -/
  | reserved (w : BitVec 5)
  /-- The bytes end before the action's operand does. -/
  | truncated (a : Act)
  deriving DecidableEq, Repr

/-- The Δ of a STEP record: 4 bytes, little-endian (R73). -/
def decodeDelta (a : Act) (k : Cyc → Instr) (bs : List Byte) : Except Reject (Instr × List Byte) :=
  match takeLe 4 bs with
  | none => .error (.truncated a)
  | some (v, rest) => .ok (k (BitVec.ofNat 32 v), rest)

/-- The level of an ENV_PIN_DEC record: 1 byte (R73). -/
def decodeLevel (bs : List Byte) : Except Reject (Instr × List Byte) :=
  match bs with
  | [] => .error (.truncated .envPinDec)
  | b :: rest => .ok (.envPinDec b, rest)

/-- The message of a SEND record: 4 bytes of src, 4 of dst, 2 of len, all little-endian, then the len bytes
of data (R73). -/
def decodeMessage (a : Act) (k : Message → Instr) (bs : List Byte) : Except Reject (Instr × List Byte) :=
  match takeLe 4 bs with
  | none => .error (.truncated a)
  | some (src, bs1) =>
    match takeLe 4 bs1 with
    | none => .error (.truncated a)
    | some (dst, bs2) =>
      match takeLe 2 bs2 with
      | none => .error (.truncated a)
      | some (len, bs3) =>
        match takeBytes len bs3 with
        | none => .error (.truncated a)
        | some (data, rest) =>
          .ok (k { src := BitVec.ofNat 32 src, dst := BitVec.ofNat 32 dst, len := len, data := data }, rest)

/-- The operand bytes of each action (R73). -/
def decodeOperands (a : Act) (bs : List Byte) : Except Reject (Instr × List Byte) :=
  match a with
  | .decStep => decodeDelta a .decStep bs
  | .encStep => decodeDelta a .encStep bs
  | .envResetDec => .ok (.envResetDec, bs)
  | .envReadyDec => .ok (.envReadyDec, bs)
  | .envSendDec => decodeMessage a .envSendDec bs
  | .envKickDec => .ok (.envKickDec, bs)
  | .envRecvDec => .ok (.envRecvDec, bs)
  | .envPinDec => decodeLevel bs
  | .envResetEnc => .ok (.envResetEnc, bs)
  | .envReadyEnc => .ok (.envReadyEnc, bs)
  | .envSendEnc => decodeMessage a .envSendEnc bs
  | .envKickEnc => .ok (.envKickEnc, bs)

/-- The action record at the front of a byte string, and the bytes after it (R73). Total: a byte 0 with
bits [7:5] not 0, a reserved word and a record cut short are rejected by name. An operand out of range is
decoded; the action is then refused by its meaning (R72, R86). -/
def decode (bs : List Byte) : Except Reject (Instr × List Byte) :=
  match bs with
  | [] => .error .empty
  | b :: rest =>
    if b.toNat < 32 then
      match decodeAct (b.setWidth 5) with
      | none => .error (.reserved (b.setWidth 5))
      | some a => decodeOperands a rest
    else .error (.highBits b)

/-- How many bytes a rejected record takes: the one byte of a reserved word or of a byte 0 with high bits
(95_test_vectors.md P5), all that is left of a record cut short (log 6). -/
def Reject.rest (r : Reject) (bs : List Byte) : List Byte :=
  match r with
  | .empty => bs
  | .highBits _ => bs.drop 1
  | .reserved _ => bs.drop 1
  | .truncated _ => []

/-- A message that the fields of a SEND record can hold: len = |data|, and len fits its two bytes (R73;
log 13). -/
def Message.fits (m : Message) : Bool := decide (m.len = m.data.length) && decide (m.len < 65536)

/-- The message fields of a SEND record (R73). -/
def encodeMessage (m : Message) : List Byte :=
  leBytes 4 m.src.toNat ++ (leBytes 4 m.dst.toNat ++ (leBytes 2 m.len ++ m.data))

/-- The record of a SEND, by its byte 0 (R73). R73 does not say what the record of a message is whose len its two
bytes cannot hold, or whose len is not |data|: such a SEND has none. DESIGN CHOICE (log 13). -/
def encodeSend (b : Byte) (m : Message) : Option (List Byte) :=
  if m.fits then some (b :: encodeMessage m) else none

/-- Byte 0 of a record: `zext_8(w)` (R73). -/
def Act.byte (a : Act) : Byte := a.word.setWidth 8

/-- The record of an action (R73); none for a SEND whose message does not fit one (log 13). A selector row
has none: "A selector word is never stored and never supplied from outside" (R70). -/
def encode : Instr → Option (List Byte)
  | .decStep delta => some (Act.decStep.byte :: leBytes 4 delta.toNat)
  | .encStep delta => some (Act.encStep.byte :: leBytes 4 delta.toNat)
  | .envResetDec => some [Act.envResetDec.byte]
  | .envReadyDec => some [Act.envReadyDec.byte]
  | .envSendDec m => encodeSend Act.envSendDec.byte m
  | .envKickDec => some [Act.envKickDec.byte]
  | .envRecvDec => some [Act.envRecvDec.byte]
  | .envPinDec level => some [Act.envPinDec.byte, level]
  | .envResetEnc => some [Act.envResetEnc.byte]
  | .envReadyEnc => some [Act.envReadyEnc.byte]
  | .envSendEnc m => encodeSend Act.envSendEnc.byte m
  | .envKickEnc => some [Act.envKickEnc.byte]
  | .decIdleLow => none
  | .decIdleHigh => none
  | .decRiseGap => none
  | .decRiseChan => none
  | .decFallOk => none
  | .decFallLong => none
  | .encWait => none
  | .encRise => none
  | .encFallFirst => none
  | .encFallChan => none
  | .encFallPad => none
  | .decBridgeIdle => none
  | .decBridgeService => none
  | .encBridgeIdle => none
  | .encBridgeService => none
  | .decMsgDiscard _ => none
  | .encMsgApply _ => none
  | .encMsgReject _ => none
  | .ctrTick _ _ => none
  | .ctrRead _ => none
  | .ctrResetTick _ _ => none

/-- The instruction has a record: every action but a SEND whose message does not fit one (log 13). -/
def Instr.encodable (i : Instr) : Bool := (encode i).isSome

/-! ## One table word as bytes -/

/-- The number of operand bytes of an action, given the bytes after its word: "The length of a record is
therefore determined by byte 0, and by the len field for a SEND" (R73). -/
def operandLength (a : Act) (bs : List Byte) : Nat :=
  match a with
  | .decStep => 4
  | .encStep => 4
  | .envResetDec => 0
  | .envReadyDec => 0
  | .envSendDec => 10 + (match takeLe 2 (bs.drop 8) with | some (len, _) => len | none => 0)
  | .envKickDec => 0
  | .envRecvDec => 0
  | .envPinDec => 1
  | .envResetEnc => 0
  | .envReadyEnc => 0
  | .envSendEnc => 10 + (match takeLe 2 (bs.drop 8) with | some (len, _) => len | none => 0)
  | .envKickEnc => 0

/-- The number of bytes of the record that begins a byte string; 1 for a reserved byte 0. -/
def recordLength (bs : List Byte) : Nat :=
  match bs with
  | [] => 0
  | b :: rest =>
    if b.toNat < 32 then
      match decodeAct (b.setWidth 5) with
      | none => 1
      | some a => 1 + operandLength a rest
    else 1

/-- The bytes of the instruction whose bits are `w`: the `nbits` bits given, in whole bytes, least significant
first, and then zero bytes up to the end of the record. -/
def tableBytes (nbits w : Nat) : List Byte :=
  let given := leBytes ((nbits + 7) / 8) w
  given ++ List.replicate (recordLength (given ++ List.replicate 11 0#8) - given.length) 0#8

/-- The instruction the decoder reads from an instruction whose bits are `w`. A selector word is no record
(R70), so a table word is always read as an action word (log 4). -/
def decodeTableWord (nbits w : Nat) : Option Instr :=
  match decode (tableBytes nbits w) with
  | .ok (i, _) => some i
  | .error _ => none

end Sys2Proof
end

