-- ==== Sys2Proof/Machine/Operands.lean ====
section
/-!
DEFINITION. The operand checks of 30_encoding.md R72 and the acceptance test of 43_bridge.md R192. An operand
that fails its check makes the action refused (R86).
-/

namespace Sys2Proof.Machine

/-- Δ of a STEP: 1 ≤ Δ ≤ LAT_MAX (R72). -/
def deltaOk (p : Params) (delta : Cyc) : Bool :=
  decide (1 ≤ delta.toNat) && decide (delta.toNat ≤ p.latMax)

/-- The level of ENV_PIN_DEC: 0 or 1 (R72). -/
def levelOk (level : Byte) : Bool :=
  decide (level = 0#8) || decide (level = 1#8)

/-- The pin level that a level byte gives: "The PIN level is bit 0 of its byte" (R84). -/
def levelBit (level : Byte) : Bool := level.getLsbD 0

/-- `len` is the number of data bytes (R68). -/
def msgExact (m : Message) : Bool := decide (m.len = m.data.length)

/-- The message operand of a SEND: len ≤ MSG_MAX and len = |data| (R72). -/
def msgOk (p : Params) (m : Message) : Bool :=
  decide (m.len ≤ p.msgMax) && msgExact m

/-- accept(m): always under PARTIAL, exactly the length 24 under REJECT (R192). -/
def accept (p : Params) (m : Message) : Bool :=
  match p.lenPolicy with
  | .partialCopy => true
  | .reject => decide (m.len = 24)

end Sys2Proof.Machine
end

