-- ==== Sys2Proof/Machine/State.lean ====
section
/-!
DEFINITION. The machine's state (10_state.md R20 to R37, R43), the reasons it can stop, and the state at the
start of a run (R45, 70_reset_and_hazards.md R232). The parameters of R8 are not state (R20): they are Config.
-/

namespace Sys2Proof.Machine

/-- `u.mode`: INIT (0) or RUN (1) (R21). -/
inductive Mode where
  | init
  | run
  deriving DecidableEq, Repr

/-- A unit's channel frame: 12 channels of 16 bits (R28, R36, R50). -/
abbrev Frame := Vector Chan 12

/-- The local variables of one step's pseudocode (R121, R151), the model's own (log 4): `e`, what CTR_READ
returned, and `rst`, the timing part's request for CTR_RESET_TICK (R105). At rest between actions. -/
structure StepVars where
  e : Cyc
  rst : Bool
  deriving DecidableEq, Repr

/-- The step variables between actions (log 4). -/
def StepVars.rest : StepVars := { e := 0#32, rst := false }

/-- The registers of the decoder unit. -/
structure DecState where
  /-- `dec.mode` (R21). -/
  mode : Mode
  /-- `dec.ready` (R22). -/
  ready : Bool
  /-- `dec.cyc` (R23). -/
  cyc : Cyc
  /-- `dec.kick` (R24). -/
  kick : Bool
  /-- `dec.inq`, oldest first (R25). -/
  inq : List Message
  /-- `dec.last`, true for HIGH (R26). -/
  last : Bool
  /-- `dec.idx`, legal values 0 to 12 (R27). -/
  idx : BitVec 4
  /-- `dec.frame` (R28). -/
  frame : Frame
  /-- `dec.peer` (R29). -/
  peer : Endpoint
  /-- `dec.outq`, oldest first (R30). -/
  outq : List Message
  /-- `dec.malformed`, the event output of the last decoder step (R43, log 9). -/
  malformed : Bool
  /-- The step variables (log 4). -/
  vars : StepVars
  deriving DecidableEq, Repr

/-- The registers of the encoder unit. It has no outbound queue (R37). -/
structure EncState where
  /-- `enc.mode` (R21). -/
  mode : Mode
  /-- `enc.ready` (R22). -/
  ready : Bool
  /-- `enc.cyc` (R23). -/
  cyc : Cyc
  /-- `enc.kick` (R24). -/
  kick : Bool
  /-- `enc.inq`, oldest first (R25). -/
  inq : List Message
  /-- `enc.level`, true for HIGH (R32). -/
  level : Bool
  /-- `enc.idx`, legal values 0 to 12 (R33). -/
  idx : BitVec 4
  /-- `enc.acc` (R34). -/
  acc : Cyc
  /-- `enc.deadline` (R35). -/
  deadline : Cyc
  /-- `enc.frame` (R36). -/
  frame : Frame
  /-- The step variables (log 4). -/
  vars : StepVars
  deriving DecidableEq, Repr

/-- The whole state: the two units, which share nothing (R20), the input pin, the refusal mark, and the run's
script and returned messages. -/
structure State where
  /-- DEC state (R20). -/
  dec : DecState
  /-- ENC state (R20). -/
  enc : EncState
  /-- `dec.pin_in`, true for HIGH, owned by the environment (R31). -/
  pinIn : Bool
  /-- The refusal mark, "kept for the rest of the run" (R86). -/
  refusalMark : Bool
  /-- The messages ENV_RECV_DEC has returned to the host, oldest first (R14, R197, log 8). -/
  received : List Message
  /-- The serialised action records (R73) still to be taken: the agents' choice of a run (log 3). -/
  script : List Byte
  deriving DecidableEq, Repr

/-- Why the machine stops. No rule of the spec raises an exception (60_exceptions.md R210): both are the
model's own. -/
inductive Fault where
  /-- Raised by DEC_RISE_CHAN, ENC_FALL_CHAN and the steps that take them, for a channel outside 0 to 11.
  "No rule accesses an index outside 0 to 11" (R52), and no reachable state does. Safe (log 10). -/
  | noChannel (i : Nat)
  /-- Raised by `step` when the script is empty: no agent takes a further action, and the run ends there
  (R220, R227). Safe (log 3). -/
  | runEnded
  deriving DecidableEq, Repr

/-- Why an instruction has no meaning. What the spec calls refused (R86) is not this: it is a next state with
the refusal mark (log 5). -/
inductive Refusal where
  /-- An instruction whose meaning is not written. Raised by no arm of `exec`. Safe. -/
  | notModelled (mnemonic : String)
  deriving DecidableEq, Repr

/-- The outcome of one instruction. -/
abbrev Result := Host.Outcome State Fault Refusal

/-- Every channel 1000, the reset value of both frames (R45). -/
def Frame.reset : Frame :=
  #v[1000#16, 1000#16, 1000#16, 1000#16, 1000#16, 1000#16, 1000#16, 1000#16, 1000#16, 1000#16, 1000#16, 1000#16]

/-- The reset values of `dec.*` (R45). -/
def DecState.reset : DecState where
  mode := .init
  ready := false
  cyc := 0#32
  kick := false
  inq := []
  last := false
  idx := 0#4
  frame := Frame.reset
  peer := Config.peerReset
  outq := []
  malformed := false
  vars := StepVars.rest

/-- The reset values of `enc.*` (R45). -/
def EncState.reset : EncState where
  mode := .init
  ready := false
  cyc := 0#32
  kick := false
  inq := []
  level := false
  idx := 0#4
  acc := 0#32
  deadline := 0#32
  frame := Frame.reset
  vars := StepVars.rest

/-- The start of a run (R45, R232): both units reset, the pin a draw, no refusal mark, nothing returned, and
no action in the script (log 2, log 3, log 5, log 8). -/
def State.reset : State where
  dec := DecState.reset
  enc := EncState.reset
  pinIn := Config.pinAtStart
  refusalMark := false
  received := []
  script := []

/-- The state with another decoder unit. -/
def State.withDec (s : State) (d : DecState) : State := { s with dec := d }

/-- The state with another encoder unit. -/
def State.withEnc (s : State) (u : EncState) : State := { s with enc := u }

/-- The state with another input level. -/
def State.withPin (s : State) (level : Bool) : State := { s with pinIn := level }

/-- The state with another script. -/
def State.withScript (s : State) (bs : List Byte) : State := { s with script := bs }

end Sys2Proof.Machine
end

