-- ==== Sys2Proof/Machine/Ops.lean ====
section
/-!
DEFINITION. The shared operations: satW and clamp (00_scope.md R10, R11), the frame and its byte image
(20_memory.md R51 to R55), queues (R67), the refusal of an action (30_encoding.md R86), the fetch of the next
action of the script (log 3), and the output pin (42_encoder.md R161). The CORE has no exception to take and
none to return from (60_exceptions.md R210, R215, R216); refusing an action is the one shared way an action
fails.
-/

namespace Sys2Proof.Machine

/-! ## Arithmetic -/

/-- satW(x) = min(max(x, 0), CYC_MAX) (R10). -/
def satW (x : Int) : Cyc := BitVec.ofNat 32 (min x.toNat cycMax)

/-- clamp(v) = min(max(v, 1000), 2000) (R11). -/
def clamp (v : Nat) : Nat := min (max v Config.chMin) Config.chMax

/-! ## Frames -/

/-- `u.frame[i]`, or none for an index that is no channel (R52). -/
def channel (f : Frame) (i : Nat) : Option Chan := f[i]?

/-- `u.frame[i] <- v`, changing no other channel (R52). -/
def setChannel (f : Frame) (i : Nat) (v : Chan) : Frame := f.setIfInBounds i v

/-- Image byte j of a channel: bits [7:0] at an even offset, bits [15:8] at an odd one (R51). -/
def chanByte (v : Chan) (j : Nat) : Byte :=
  if j % 2 = 0 then v.extractLsb' 0 8 else v.extractLsb' 8 8

/-- A channel with one of its two bytes replaced (R53). -/
def setChanByte (v : Chan) (j : Nat) (b : Byte) : Chan :=
  if j % 2 = 0 then v.extractLsb' 8 8 ++ b else b ++ v.extractLsb' 0 8

/-- Image byte j of a frame (R51), or none past byte 23. -/
def imageByte (f : Frame) (j : Nat) : Option Byte :=
  (channel f (j / 2)).map fun v => chanByte v j

/-- A frame with image byte j replaced (R53); a frame has no byte past 23. -/
def setImageByte (f : Frame) (j : Nat) (b : Byte) : Frame :=
  match channel f (j / 2) with
  | some v => setChannel f (j / 2) (setChanByte v j b)
  | none => f

/-- MemRead(u, a, n): n bytes at offset a, little-endian; none where a + n > 24 (R53). -/
def memRead (f : Frame) (a : Nat) : Nat → Option Nat
  | 0 => if a ≤ 24 then some 0 else none
  | n + 1 =>
    match imageByte f a, memRead f (a + 1) n with
    | some b, some v => some (b.toNat + 256 * v)
    | _, _ => none

/-- Consecutive image bytes replaced from offset a on. -/
def setImageBytes (f : Frame) (a : Nat) : List Byte → Frame
  | [] => f
  | b :: bs => setImageBytes (setImageByte f a b) (a + 1) bs

/-- MemWrite(u, a, n, v): n bytes of v at offset a, little-endian; none where a + n > 24 (R53). -/
def memWrite (f : Frame) (a n v : Nat) : Option Frame :=
  if a + n ≤ 24 then some (setImageBytes f a (leBytes n v)) else none

/-- pack(u): the 24 image bytes of a frame (R54). -/
def pack (f : Frame) : List Byte :=
  f.toList.flatMap fun v : Chan => [chanByte v 0, chanByte v 1]

/-- b[2i] + 256 · b[2i + 1] (R55), with 0 for a byte that is not there. -/
def unpackChan (b : List Byte) (i : Nat) : Chan :=
  b.getD (2 * i + 1) 0#8 ++ b.getD (2 * i) 0#8

/-- unpack(b), for a byte sequence of at least 24 bytes (R55). -/
def unpack (b : List Byte) : Frame := Vector.ofFn fun i => unpackChan b i.val

/-! ## Queues -/

/-- push(q, m): m at the tail (R12). -/
def push (q : List Message) (m : Message) : List Message := q ++ [m]

/-- push(q, m) where the queue has room, none where it holds `cap` messages already (R25, R30). -/
def pushIfRoom (cap : Nat) (q : List Message) (m : Message) : Option (List Message) :=
  if q.length < cap then some (push q m) else none

/-! ## Refusing an action -/

/-- A refused action: no step is taken, and the refusal mark is set (R86, R226). -/
def markRefused (s : State) : State := { s with refusalMark := true }

/-! ## Results of a unit -/

/-- The outcome for the whole state of what the decoder unit did. -/
def liftDec (s : State) (r : Except Fault DecState) : Result :=
  match r with
  | .ok d => .next (s.withDec d)
  | .error f => .fault f

/-- The outcome for the whole state of what the encoder unit did. -/
def liftEnc (s : State) (r : Except Fault EncState) : Result :=
  match r with
  | .ok u => .next (s.withEnc u)
  | .error f => .fault f

/-! ## The next action -/

/-- What stands at the front of the script. -/
inductive Fetched where
  /-- An action, and the state without its record. -/
  | action (i : Instr) (s : State)
  /-- No record: the action is refused (R86), and the state is left with the mark and without its bytes. -/
  | rejected (s : State)
  /-- Nothing. -/
  | ended
  deriving DecidableEq, Repr

/-- Takes the next action record from the script (R73, log 3, log 6). -/
def fetch (s : State) : Fetched :=
  match decode s.script with
  | .ok (i, rest) => .action i (s.withScript rest)
  | .error .empty => .ended
  | .error (.highBits b) => .rejected (markRefused (s.withScript (Reject.rest (.highBits b) s.script)))
  | .error (.reserved w) => .rejected (markRefused (s.withScript (Reject.rest (.reserved w) s.script)))
  | .error (.truncated a) => .rejected (markRefused (s.withScript (Reject.rest (.truncated a) s.script)))

/-! ## The output pin -/

/-- `ppm_out` = `enc.level` at every instant (R161). -/
def ppmOut (s : State) : Bool := s.enc.level

end Sys2Proof.Machine
end

