-- ==== Sys2Proof/Machine/Flags.lean ====
section
/-!
DEFINITION. The conditions a step tests, as the selector words of 30_encoding.md R74 to R80. The CORE stores
no flag: each is computed anew from the registers (10_state.md R40).
-/

namespace Sys2Proof.Machine

/-- A word of three bits, the most significant first (R9). -/
def bits3 (a b c : Bool) : BitVec 3 :=
  BitVec.ofBool a ++ BitVec.ofBool b ++ BitVec.ofBool c

/-- A word of four bits, the most significant first (R9). -/
def bits4 (a b c d : Bool) : BitVec 4 :=
  BitVec.ofBool a ++ BitVec.ofBool b ++ BitVec.ofBool c ++ BitVec.ofBool d

/-- A word of two bits, the most significant first (R9). -/
def bits2 (a b : Bool) : BitVec 2 :=
  BitVec.ofBool a ++ BitVec.ofBool b

/-- T: e > MAX_GAP_C on a rising edge, e > MAX_PULSE_C on a falling edge, 0 with no edge (R75). -/
def thresholdBit (p : Params) (last cur : Bool) (e : Cyc) : Bool :=
  match last, cur with
  | false, true => decide (e.toNat > p.maxGapC)
  | true, false => decide (e.toNat > p.maxPulseC)
  | false, false => false
  | true, true => false

/-- DSEL = L ++ C ++ T, with C the sampled level and e the value CTR_READ returned (R74, R125). -/
def dselWord (p : Params) (cur : Bool) (d : DecState) : BitVec 3 :=
  bits3 d.last cur (thresholdBit p d.last cur d.vars.e)

/-- H: the deadline is reached, e ≥ `enc.deadline` (R76, R153). -/
def deadlineHit (u : EncState) : Bool := decide (u.vars.e.toNat ≥ u.deadline.toNat)

/-- ESEL = H ++ N ++ F ++ Z: N the new level, F and Z the index at 12 and at 0 (R76, R154). -/
def eselWord (u : EncState) : BitVec 4 :=
  bits4 (deadlineHit u) (!u.level) (decide (u.idx.toNat = 12)) (decide (u.idx.toNat = 0))

/-- The unit bit U: 0 for DEC, 1 for ENC (R78, R79). -/
def unitBit : UnitId → Bool
  | .dec => false
  | .enc => true

/-- BSEL = U ++ K, with K = `u.kick` (R79). -/
def bselWord (u : UnitId) (kick : Bool) : BitVec 2 := bits2 (unitBit u) kick

/-- MSEL = U ++ A, with A the acceptance bit, which DEC does not use (R78). -/
def mselWord (p : Params) (u : UnitId) (m : Message) : BitVec 2 := bits2 (unitBit u) (accept p m)

/-- CSEL of the operation that ends a step: CTR_RESET_TICK if the timing part requested a reset, otherwise
CTR_TICK (R80, R105). -/
def cselWord (rst : Bool) : BitVec 2 := bits2 rst false

end Sys2Proof.Machine
end

