-- ==== Sys2Proof/Machine/Bridge.lean ====
section
/-!
DEFINITION. The host bridge of each unit (43_bridge.md R180 to R192): the BSEL and MSEL rows. And the host's
actions on queues and signals (R193 to R197).
-/

namespace Sys2Proof.Machine

/-! ## Messages -/

/-- DEC_MSG_DISCARD (R185): `dec.peer <- m.src`; len, data and dst are not looked at (R198). -/
def decMsgDiscard (m : Message) (d : DecState) : DecState := { d with peer := m.src }

/-- The payload bytes that ENC_MSG_APPLY copies: the first min(len, 24) (R190; log 12). -/
def appliedBytes (m : Message) : List Byte := m.data.take (min m.len 24)

/-- ENC_MSG_APPLY (R190): the payload's bytes overwrite the frame's image from offset 0 on, with no clamp. -/
def encMsgApply (m : Message) (u : EncState) : EncState :=
  { u with frame := setImageBytes u.frame 0 (appliedBytes m) }

/-- ENC_MSG_REJECT (R191): the message is discarded. -/
def encMsgReject (_m : Message) (u : EncState) : EncState := u

/-- What the encoder does with one drained message, by its MSEL word (R78, R189). -/
def encMsg (p : Params) (u : EncState) (m : Message) : EncState :=
  match decodeMsel (mselWord p .enc m) with
  | .encApply => encMsgApply m u
  | .encReject => encMsgReject m u
  | .decDiscard => u

/-- What the decoder does with one drained message, by its MSEL word (R78, R184). -/
def decMsg (p : Params) (d : DecState) (m : Message) : DecState :=
  match decodeMsel (mselWord p .dec m) with
  | .decDiscard => decMsgDiscard m d
  | .encApply => d
  | .encReject => d

/-! ## Decoder bridge -/

/-- REPLY (R186): (DEC_PORT, `dec.peer`, 24, pack(dec)). -/
def reply (p : Params) (d : DecState) : Message :=
  { src := p.decPort, dst := d.peer, len := 24, data := pack d.frame }

/-- The reply at the tail of `dec.outq`, or dropped when the queue is full (R184, R187). -/
def pushReply (p : Params) (d : DecState) : DecState :=
  match pushIfRoom p.qOutCap d.outq (reply p d) with
  | some q => { d with outq := q }
  | none => d

/-- DEC_BRIDGE_IDLE (R183): skip. -/
def decBridgeIdle (d : DecState) : DecState := d

/-- DEC_BRIDGE_SERVICE (R184): the signal is cleared, the inbound queue drained oldest first, one reply made. -/
def decBridgeService (p : Params) (d : DecState) : DecState :=
  pushReply p (d.inq.foldl (decMsg p) { d with kick := false, inq := [] })

/-- BRIDGE_DEC (R182): the case of BSEL = 0 ++ `dec.kick`. -/
def bridgeDec (p : Params) (d : DecState) : DecState :=
  match decodeBsel (bselWord .dec d.kick) with
  | .decIdle => decBridgeIdle d
  | .decService => decBridgeService p d
  | .encIdle => d
  | .encService => d

/-! ## Encoder bridge -/

/-- ENC_BRIDGE_IDLE (R188): skip. -/
def encBridgeIdle (u : EncState) : EncState := u

/-- ENC_BRIDGE_SERVICE (R189): the signal is cleared, the inbound queue drained oldest first, each message
applied or rejected. Nothing is replied (R37). -/
def encBridgeService (p : Params) (u : EncState) : EncState :=
  u.inq.foldl (encMsg p) { u with kick := false, inq := [] }

/-- BRIDGE_ENC (R188, R189): the case of BSEL = 1 ++ `enc.kick`. -/
def bridgeEnc (p : Params) (u : EncState) : EncState :=
  match decodeBsel (bselWord .enc u.kick) with
  | .encIdle => encBridgeIdle u
  | .encService => encBridgeService p u
  | .decIdle => u
  | .decService => u

/-! ## Meanings of the selector rows -/

/-- DEC_BRIDGE_IDLE (R183). -/
def execDecBridgeIdle (s : State) : Result := .next (s.withDec (decBridgeIdle s.dec))

/-- DEC_BRIDGE_SERVICE (R184). -/
def execDecBridgeService (s : State) : Result := .next (s.withDec (decBridgeService Config.params s.dec))

/-- ENC_BRIDGE_IDLE (R188). -/
def execEncBridgeIdle (s : State) : Result := .next (s.withEnc (encBridgeIdle s.enc))

/-- ENC_BRIDGE_SERVICE (R189). -/
def execEncBridgeService (s : State) : Result := .next (s.withEnc (encBridgeService Config.params s.enc))

/-- DEC_MSG_DISCARD (R185). -/
def execDecMsgDiscard (m : Message) (s : State) : Result := .next (s.withDec (decMsgDiscard m s.dec))

/-- ENC_MSG_APPLY (R190). -/
def execEncMsgApply (m : Message) (s : State) : Result := .next (s.withEnc (encMsgApply m s.enc))

/-- ENC_MSG_REJECT (R191). -/
def execEncMsgReject (m : Message) (s : State) : Result := .next (s.withEnc (encMsgReject m s.enc))

/-! ## Host actions -/

/-- ENV_SEND_DEC(m) (R193): refused if m is out of range (R72, R86), no move if `dec.inq` is full (R87,
log 7), otherwise m goes to its tail. -/
def envSendDec (p : Params) (m : Message) (s : State) : State :=
  if msgOk p m then
    match pushIfRoom p.qInCap s.dec.inq m with
    | some q => s.withDec { s.dec with inq := q }
    | none => s
  else markRefused s

/-- ENV_SEND_ENC(m) (R194), as R193. -/
def envSendEnc (p : Params) (m : Message) (s : State) : State :=
  if msgOk p m then
    match pushIfRoom p.qInCap s.enc.inq m with
    | some q => s.withEnc { s.enc with inq := q }
    | none => s
  else markRefused s

/-- ENV_KICK_DEC (R195): `dec.kick <- 1`. -/
def envKickDec (s : State) : State := s.withDec { s.dec with kick := true }

/-- ENV_KICK_ENC (R196): `enc.kick <- 1`. -/
def envKickEnc (s : State) : State := s.withEnc { s.enc with kick := true }

/-- ENV_RECV_DEC (R197): the oldest reply is removed and returned to the host (log 8); no move if there is none
(R87, log 7). -/
def envRecvDec (s : State) : State :=
  match s.dec.outq with
  | [] => s
  | m :: rest => { s.withDec { s.dec with outq := rest } with received := push s.received m }

/-- ENV_SEND_DEC (R193). -/
def execEnvSendDec (m : Message) (s : State) : Result := .next (envSendDec Config.params m s)

/-- ENV_SEND_ENC (R194). -/
def execEnvSendEnc (m : Message) (s : State) : Result := .next (envSendEnc Config.params m s)

/-- ENV_KICK_DEC (R195). -/
def execEnvKickDec (s : State) : Result := .next (envKickDec s)

/-- ENV_KICK_ENC (R196). -/
def execEnvKickEnc (s : State) : Result := .next (envKickEnc s)

/-- ENV_RECV_DEC (R197). -/
def execEnvRecvDec (s : State) : Result := .next (envRecvDec s)

end Sys2Proof.Machine
end

