-- ==== Sys2Proof/Machine/Counter.lean ====
section
/-!
DEFINITION. The cycle counter's operations (40_cycle_counter.md R100 to R106), on each unit, and the meanings of
the CSEL rows.
-/

namespace Sys2Proof.Machine

/-- `satW(u.cyc + Δ)` (R103): the sum saturates at CYC_MAX (R101). -/
def tickValue (cyc delta : Cyc) : Cyc := satW (cyc.toNat + delta.toNat)

/-- `satW(0 + Δ)` (R104). -/
def resetTickValue (delta : Cyc) : Cyc := satW (0 + delta.toNat)

/-- CTR_READ(dec): `e <- dec.cyc` (R102). -/
def decCtrRead (d : DecState) : DecState := { d with vars := { d.vars with e := d.cyc } }

/-- CTR_TICK(dec, Δ) (R103). -/
def decCtrTick (delta : Cyc) (d : DecState) : DecState := { d with cyc := tickValue d.cyc delta }

/-- CTR_RESET_TICK(dec, Δ) (R104). -/
def decCtrResetTick (delta : Cyc) (d : DecState) : DecState := { d with cyc := resetTickValue delta }

/-- CTR_READ(enc): `e <- enc.cyc` (R102). -/
def encCtrRead (u : EncState) : EncState := { u with vars := { u.vars with e := u.cyc } }

/-- CTR_TICK(enc, Δ) (R103). -/
def encCtrTick (delta : Cyc) (u : EncState) : EncState := { u with cyc := tickValue u.cyc delta }

/-- CTR_RESET_TICK(enc, Δ) (R104). -/
def encCtrResetTick (delta : Cyc) (u : EncState) : EncState := { u with cyc := resetTickValue delta }

/-- The counter part that ends a decoder step: exactly one of the two (R105, R135). -/
def decCounterPart (delta : Cyc) (d : DecState) : DecState :=
  if d.vars.rst then decCtrResetTick delta d else decCtrTick delta d

/-- The counter part that ends an encoder step: exactly one of the two (R105). -/
def encCounterPart (delta : Cyc) (u : EncState) : EncState :=
  if u.vars.rst then encCtrResetTick delta u else encCtrTick delta u

/-- CTR_TICK (R103). -/
def execCtrTick (u : UnitId) (delta : Cyc) (s : State) : Result :=
  match u with
  | .dec => .next (s.withDec (decCtrTick delta s.dec))
  | .enc => .next (s.withEnc (encCtrTick delta s.enc))

/-- CTR_READ (R102): the value read is left in the step variable `e`; no register is written. -/
def execCtrRead (u : UnitId) (s : State) : Result :=
  match u with
  | .dec => .next (s.withDec (decCtrRead s.dec))
  | .enc => .next (s.withEnc (encCtrRead s.enc))

/-- CTR_RESET_TICK (R104). -/
def execCtrResetTick (u : UnitId) (delta : Cyc) (s : State) : Result :=
  match u with
  | .dec => .next (s.withDec (decCtrResetTick delta s.dec))
  | .enc => .next (s.withEnc (encCtrResetTick delta s.enc))

end Sys2Proof.Machine
end

