-- ==== Sys2Proof/Machine/Decoder.lean ====
section
/-!
DEFINITION. The PPM decoder (41_decoder.md): the six DSEL cases (R126 to R132) and DEC_STEP (R121), which is
made of them, of the bridge part and of the counter part.
-/

namespace Sys2Proof.Machine

/-! ## The six cases -/

/-- `rst <- 1`: the timing part requests a counter reset (R105). -/
def decRequestReset (d : DecState) : DecState := { d with vars := { d.vars with rst := true } }

/-- DEC_IDLE_LOW (R126): skip. -/
def decIdleLow (d : DecState) : DecState := d

/-- DEC_IDLE_HIGH (R127): skip. -/
def decIdleHigh (d : DecState) : DecState := d

/-- DEC_RISE_GAP (R128): `rst <- 1; dec.idx <- 0`; no channel is written. -/
def decRiseGap (d : DecState) : DecState := { decRequestReset d with idx := 0#4 }

/-- The value DEC_RISE_CHAN stores: clamp((e div CPU) + PULSE_US), the quotient rounded down (R129, R130). -/
def chanValue (p : Params) (e : Cyc) : Chan := BitVec.ofNat 16 (clamp (e.toNat / p.cpu + Config.pulseUs))

/-- DEC_RISE_CHAN (R129): `rst <- 1`, the value stored at `dec.idx`, and the index advanced. An index of 12 or
more is no channel (R52, log 10). -/
def decRiseChan (p : Params) (d : DecState) : Except Fault DecState :=
  if d.idx.toNat < 12 then
    .ok { decRequestReset d with
      frame := setChannel d.frame d.idx.toNat (chanValue p d.vars.e)
      idx := d.idx + 1#4 }
  else .error (.noChannel d.idx.toNat)

/-- DEC_FALL_OK (R131): `rst <- 1`. -/
def decFallOk (d : DecState) : DecState := decRequestReset d

/-- DEC_FALL_LONG (R132): `rst <- 1; dec.malformed <- 1`, and no corrective action. -/
def decFallLong (d : DecState) : DecState := { decRequestReset d with malformed := true }

/-! ## The step -/

/-- The index wrap at loop entry: `if dec.idx >= 12: dec.idx <- 0` (R123). -/
def decWrap (d : DecState) : DecState :=
  if 12 ≤ d.idx.toNat then { d with idx := 0#4 } else d

/-- The parts of a RUN step before its case: `rst <- 0`, the wrap, CTR_READ (R121, R123). -/
def decEnter (d : DecState) : DecState :=
  decCtrRead (decWrap { d with vars := { d.vars with rst := false } })

/-- The case of a RUN step, by its DSEL word (R125). -/
def decSelect (p : Params) (cur : Bool) (d : DecState) : DecCase := decodeDsel (dselWord p cur d)

/-- The effect of a case (R126 to R132). -/
def decTake (p : Params) (c : DecCase) (d : DecState) : Except Fault DecState :=
  match c with
  | .idleLow => .ok (decIdleLow d)
  | .idleHigh => .ok (decIdleHigh d)
  | .riseGap => .ok (decRiseGap d)
  | .riseChan => decRiseChan p d
  | .fallOk => .ok (decFallOk d)
  | .fallLong => .ok (decFallLong d)

/-- The step variables put back at rest: nothing of a step is stored (R42, log 4). -/
def decClearVars (d : DecState) : DecState := { d with vars := StepVars.rest }

/-- The parts of a RUN step after its case: `dec.last <- cur` (R133), the bridge (R134), the counter (R135). -/
def decLeave (p : Params) (cur : Bool) (delta : Cyc) (d : DecState) : DecState :=
  decClearVars (decCounterPart delta (bridgeDec p { d with last := cur }))

/-- DEC_STEP in RUN mode (R121), with `cur` the sampled level (R124). -/
def decRun (p : Params) (cur : Bool) (delta : Cyc) (d : DecState) : Except Fault DecState :=
  match decTake p (decSelect p cur (decEnter d)) (decEnter d) with
  | .ok d' => .ok (decLeave p cur delta d')
  | .error f => .error f

/-- DEC_STEP in INIT mode, the host-readiness wait (R122). -/
def decInit (d : DecState) : DecState :=
  if d.ready then { d with mode := .run, cyc := 0#32 } else d

/-- `dec.malformed <- 0`, the first part of every decoder step (R43, R121). -/
def decClearEvent (d : DecState) : DecState := { d with malformed := false }

/-- DEC_STEP on the decoder unit (R121): the event cleared, then by the mode. -/
def decStepUnit (p : Params) (cur : Bool) (delta : Cyc) (d : DecState) : Except Fault DecState :=
  match d.mode with
  | .init => .ok (decInit (decClearEvent d))
  | .run => decRun p cur delta (decClearEvent d)

/-- DEC_STEP(Δ) (R121); refused for a Δ out of range (R72, R86). -/
def decStep (p : Params) (delta : Cyc) (s : State) : Result :=
  if deltaOk p delta then liftDec s (decStepUnit p s.pinIn delta s.dec)
  else .next (markRefused s)

/-! ## Meanings -/

/-- DEC_STEP (R121). -/
def execDecStep (delta : Cyc) (s : State) : Result := decStep Config.params delta s

/-- DEC_IDLE_LOW (R126). -/
def execDecIdleLow (s : State) : Result := .next (s.withDec (decIdleLow s.dec))

/-- DEC_IDLE_HIGH (R127). -/
def execDecIdleHigh (s : State) : Result := .next (s.withDec (decIdleHigh s.dec))

/-- DEC_RISE_GAP (R128). -/
def execDecRiseGap (s : State) : Result := .next (s.withDec (decRiseGap s.dec))

/-- DEC_RISE_CHAN (R129). -/
def execDecRiseChan (s : State) : Result := liftDec s (decRiseChan Config.params s.dec)

/-- DEC_FALL_OK (R131). -/
def execDecFallOk (s : State) : Result := .next (s.withDec (decFallOk s.dec))

/-- DEC_FALL_LONG (R132). -/
def execDecFallLong (s : State) : Result := .next (s.withDec (decFallLong s.dec))

end Sys2Proof.Machine
end

