-- ==== Sys2Proof/Machine/Encoder.lean ====
section
/-!
DEFINITION. The PPM encoder (42_encoder.md): the five ESEL cases (R155 to R160) and ENC_STEP (R151), which is
made of them, of the bridge part and of the counter part.
-/

namespace Sys2Proof.Machine

/-! ## The five cases -/

/-- The overshoot o = e − `enc.deadline` (R153), an integer (R10). -/
def overshoot (u : EncState) : Int := (u.vars.e.toNat : Int) - (u.deadline.toNat : Int)

/-- The common part of every hit (R160): `rst <- 1`, `enc.acc <- satW(enc.acc + e)`, the level toggled. -/
def encHit (u : EncState) : EncState :=
  { u with
    vars := { u.vars with rst := true }
    acc := satW (u.acc.toNat + u.vars.e.toNat)
    level := !u.level }

/-- The deadline of the pulse: satW(PULSE_C − o) (R156). -/
def pulseDeadline (p : Params) (o : Int) : Cyc := satW ((p.pulseC : Int) - o)

/-- The deadline of a rest for channel value v: satW(clamp(v) · CPU − PULSE_C − o) (R157, R158, R162). -/
def restDeadline (p : Params) (v : Chan) (o : Int) : Cyc :=
  satW ((clamp v.toNat : Int) * (p.cpu : Int) - (p.pulseC : Int) - o)

/-- The deadline of the padding: satW(FRAME_C − enc.acc − o) (R159). -/
def padDeadline (p : Params) (acc : Cyc) (o : Int) : Cyc :=
  satW ((p.frameC : Int) - (acc.toNat : Int) - o)

/-- ENC_WAIT (R155): skip. -/
def encWait (u : EncState) : EncState := u

/-- ENC_RISE (R156): the common part, and the pulse's deadline. -/
def encRise (p : Params) (u : EncState) : EncState :=
  { encHit u with deadline := pulseDeadline p (overshoot u) }

/-- ENC_FALL_FIRST (R157): the common part, the seed `enc.acc <- e`, the deadline of rest 0, the index at 1. -/
def encFallFirst (p : Params) (u : EncState) : EncState :=
  { encHit u with
    acc := u.vars.e
    deadline := restDeadline p u.frame[0] (overshoot u)
    idx := 1#4 }

/-- ENC_FALL_CHAN (R158): the common part, the deadline of rest i, the index advanced, with i = `enc.idx`. An
index of 12 or more is no channel (R52, log 10). -/
def encFallChan (p : Params) (u : EncState) : Except Fault EncState :=
  match channel u.frame u.idx.toNat with
  | some v => .ok { encHit u with
      deadline := restDeadline p v (overshoot u)
      idx := u.idx + 1#4 }
  | none => .error (.noChannel u.idx.toNat)

/-- ENC_FALL_PAD (R159): the common part, the padding's deadline from `enc.acc` as the common part left it, the
index at 0. -/
def encFallPad (p : Params) (u : EncState) : EncState :=
  { encHit u with
    deadline := padDeadline p (encHit u).acc (overshoot u)
    idx := 0#4 }

/-! ## The step -/

/-- The parts of a RUN step before its case: `rst <- 0`, CTR_READ (R151). -/
def encEnter (u : EncState) : EncState :=
  encCtrRead { u with vars := { u.vars with rst := false } }

/-- The case of a RUN step, by its ESEL word (R154); none for an unreachable word (R77). -/
def encSelect (u : EncState) : Option EncCase := decodeEsel (eselWord u)

/-- The effect of a case (R155 to R160). -/
def encTake (p : Params) (c : EncCase) (u : EncState) : Except Fault EncState :=
  match c with
  | .wait => .ok (encWait u)
  | .rise => .ok (encRise p u)
  | .fallFirst => .ok (encFallFirst p u)
  | .fallChan => encFallChan p u
  | .fallPad => .ok (encFallPad p u)

/-- The step variables put back at rest: nothing of a step is stored (R42, log 4). -/
def encClearVars (u : EncState) : EncState := { u with vars := StepVars.rest }

/-- The parts of a RUN step after its case: the bridge (R163) and the counter (R105). -/
def encLeave (p : Params) (delta : Cyc) (u : EncState) : EncState :=
  encClearVars (encCounterPart delta (bridgeEnc p u))

/-- ENC_STEP in RUN mode (R151) that takes case `c`. -/
def encRun (p : Params) (c : EncCase) (delta : Cyc) (u : EncState) : Except Fault EncState :=
  match encTake p c (encEnter u) with
  | .ok u' => .ok (encLeave p delta u')
  | .error f => .error f

/-- ENC_STEP in INIT mode, the host-readiness wait (R152). -/
def encInit (u : EncState) : EncState :=
  if u.ready then { u with mode := .run, cyc := 0#32 } else u

/-- ENC_STEP(Δ) (R151); refused for a Δ out of range (R72, R86) or an unreachable selector word (R77). -/
def encStep (p : Params) (delta : Cyc) (s : State) : Result :=
  if deltaOk p delta then
    match s.enc.mode with
    | .init => .next (s.withEnc (encInit s.enc))
    | .run =>
      match encSelect (encEnter s.enc) with
      | some c => liftEnc s (encRun p c delta s.enc)
      | none => .next (markRefused s)
  else .next (markRefused s)

/-! ## Meanings -/

/-- ENC_STEP (R151). -/
def execEncStep (delta : Cyc) (s : State) : Result := encStep Config.params delta s

/-- ENC_WAIT (R155). -/
def execEncWait (s : State) : Result := .next (s.withEnc (encWait s.enc))

/-- ENC_RISE (R156). -/
def execEncRise (s : State) : Result := .next (s.withEnc (encRise Config.params s.enc))

/-- ENC_FALL_FIRST (R157). -/
def execEncFallFirst (s : State) : Result := .next (s.withEnc (encFallFirst Config.params s.enc))

/-- ENC_FALL_CHAN (R158). -/
def execEncFallChan (s : State) : Result := liftEnc s (encFallChan Config.params s.enc)

/-- ENC_FALL_PAD (R159). -/
def execEncFallPad (s : State) : Result := .next (s.withEnc (encFallPad Config.params s.enc))

end Sys2Proof.Machine
end

