-- ==== Sys2Proof/Machine/Env.lean ====
section
/-!
DEFINITION. Reset, readiness and the input pin: ENV_RESET_u, ENV_READY_u (70_reset_and_hazards.md R230 to R234)
and ENV_PIN_DEC (41_decoder.md R136).
-/

namespace Sys2Proof.Machine

/-- ENV_RESET_DEC (R230): every register `dec.*` takes its reset value; the pin and the encoder keep theirs. -/
def envResetDec (s : State) : State := s.withDec DecState.reset

/-- ENV_RESET_ENC (R231): every register `enc.*` takes its reset value; the decoder keeps its own. -/
def envResetEnc (s : State) : State := s.withEnc EncState.reset

/-- ENV_READY_DEC (R233): `dec.ready <- 1`. -/
def envReadyDec (s : State) : State := s.withDec { s.dec with ready := true }

/-- ENV_READY_ENC (R234): `enc.ready <- 1`. -/
def envReadyEnc (s : State) : State := s.withEnc { s.enc with ready := true }

/-- ENV_PIN_DEC(level) (R136): `dec.pin_in <- level`; refused for a level other than 0 and 1 (R72, R86). -/
def envPinDec (level : Byte) (s : State) : State :=
  if levelOk level then s.withPin (levelBit level) else markRefused s

/-- ENV_RESET_DEC (R230). -/
def execEnvResetDec (s : State) : Result := .next (envResetDec s)

/-- ENV_RESET_ENC (R231). -/
def execEnvResetEnc (s : State) : Result := .next (envResetEnc s)

/-- ENV_READY_DEC (R233). -/
def execEnvReadyDec (s : State) : Result := .next (envReadyDec s)

/-- ENV_READY_ENC (R234). -/
def execEnvReadyEnc (s : State) : Result := .next (envReadyEnc s)

/-- ENV_PIN_DEC (R136). -/
def execEnvPinDec (level : Byte) (s : State) : Result := .next (envPinDec level s)

end Sys2Proof.Machine
end

