-- ==== Sys2Proof/Machine/Dispatch.lean ====
section
/-!
DEFINITION. The meaning of every row of spec/opcode_table.json, one arm per constructor of Instr.
-/

namespace Sys2Proof.Machine

-- The ACT rows are the agents' actions (R71); the others are the cases a step is made of (R70, log 4).
def exec (i : Instr) (s : State) : Host.Outcome State Fault Refusal :=
  match i with
  | .decStep delta => Sys2Proof.Machine.execDecStep delta s
  | .encStep delta => Sys2Proof.Machine.execEncStep delta s
  | .envResetDec => Sys2Proof.Machine.execEnvResetDec s
  | .envReadyDec => Sys2Proof.Machine.execEnvReadyDec s
  | .envSendDec m => Sys2Proof.Machine.execEnvSendDec m s
  | .envKickDec => Sys2Proof.Machine.execEnvKickDec s
  | .envRecvDec => Sys2Proof.Machine.execEnvRecvDec s
  | .envPinDec level => Sys2Proof.Machine.execEnvPinDec level s
  | .envResetEnc => Sys2Proof.Machine.execEnvResetEnc s
  | .envReadyEnc => Sys2Proof.Machine.execEnvReadyEnc s
  | .envSendEnc m => Sys2Proof.Machine.execEnvSendEnc m s
  | .envKickEnc => Sys2Proof.Machine.execEnvKickEnc s
  | .decIdleLow => Sys2Proof.Machine.execDecIdleLow s
  | .decIdleHigh => Sys2Proof.Machine.execDecIdleHigh s
  | .decRiseGap => Sys2Proof.Machine.execDecRiseGap s
  | .decRiseChan => Sys2Proof.Machine.execDecRiseChan s
  | .decFallOk => Sys2Proof.Machine.execDecFallOk s
  | .decFallLong => Sys2Proof.Machine.execDecFallLong s
  | .encWait => Sys2Proof.Machine.execEncWait s
  | .encRise => Sys2Proof.Machine.execEncRise s
  | .encFallFirst => Sys2Proof.Machine.execEncFallFirst s
  | .encFallChan => Sys2Proof.Machine.execEncFallChan s
  | .encFallPad => Sys2Proof.Machine.execEncFallPad s
  | .decBridgeIdle => Sys2Proof.Machine.execDecBridgeIdle s
  | .decBridgeService => Sys2Proof.Machine.execDecBridgeService s
  | .encBridgeIdle => Sys2Proof.Machine.execEncBridgeIdle s
  | .encBridgeService => Sys2Proof.Machine.execEncBridgeService s
  | .decMsgDiscard m => Sys2Proof.Machine.execDecMsgDiscard m s
  | .encMsgApply m => Sys2Proof.Machine.execEncMsgApply m s
  | .encMsgReject m => Sys2Proof.Machine.execEncMsgReject m s
  | .ctrTick u delta => Sys2Proof.Machine.execCtrTick u delta s
  | .ctrRead u => Sys2Proof.Machine.execCtrRead u s
  | .ctrResetTick u delta => Sys2Proof.Machine.execCtrResetTick u delta s

end Sys2Proof.Machine
end

