-- ==== Sys2Proof/Machine/Step.lean ====
section
/-!
DEFINITION. One step of a run: one move of one agent (00_scope.md R13), the next action record of the script
(log 3).
-/

namespace Sys2Proof.Machine

/-- Takes the next record of the script. An action is performed on the state without its record. Bytes that
are no record are refused (R86): the mark is set, nothing else of the machine changes, and the run goes on.
With nothing left the run has ended. -/
def step (s : State) : Host.Outcome State Fault Refusal :=
  match fetch s with
  | .action i s' => exec i s'
  | .rejected s' => .next s'
  | .ended => .fault .runEnded

/-- The state with one more record before its script: the instruction whose bits are `w`, with zero bytes up to
the end of its record (log 3). -/
def State.withFetchWord (s : State) (nbits w : Nat) : State :=
  s.withScript (tableBytes nbits w ++ s.script)

end Sys2Proof.Machine
end

