-- ==== Sys2Proof/Machine/Pseudo.lean ====
section
/-!
DEFINITION. Running actions one after another, and the pseudo-actions of 30_encoding.md R91, each with its
expansion.
-/

namespace Sys2Proof.Machine

/-- The actions of a list one after another, up to the first that stops. -/
def runActs : List Instr → State → Result
  | [], s => .next s
  | i :: rest, s =>
    match exec i s with
    | .next s' => runActs rest s'
    | .fault f => .fault f
    | .refused r => .refused r

/-- The records of a list of actions, one after another (R73); none if one of them has no record (log 13). -/
def assemble : List Instr → Option (List Byte)
  | [] => some []
  | i :: rest =>
    match encode i, assemble rest with
    | some b, some bs => some (b ++ bs)
    | _, _ => none

/-- `dec.run N`: N times `dec.step 1` (R91). -/
def pseudoDecRun (n : Nat) : List Instr := List.replicate n (.decStep 1#32)

/-- `enc.run N`: N times `enc.step 1` (R91). -/
def pseudoEncRun (n : Nat) : List Instr := List.replicate n (.encStep 1#32)

/-- `env.hold L N`: `env.pin dec L`, then `dec.run N` (R91). -/
def pseudoHold (level : Bool) (n : Nat) : List Instr :=
  .envPinDec (if level then 1#8 else 0#8) :: pseudoDecRun n

/-- `host.read <src>`: a trigger byte, a kick, a step, a receive (R91, 60_exceptions.md R223). -/
def pseudoHostRead (p : Params) (src : Endpoint) : List Instr :=
  [.envSendDec { src := src, dst := p.decPort, len := 1, data := [0#8] }, .envKickDec, .decStep 1#32, .envRecvDec]

/-- `host.write <src> F`: the packed frame sent to the encoder, and a kick (R91, R223). -/
def pseudoHostWrite (p : Params) (src : Endpoint) (f : Frame) : List Instr :=
  [.envSendEnc { src := src, dst := p.encPort, len := 24, data := pack f }, .envKickEnc]

/-- One round of `loop.run`: `enc.step 1`, the level then on `ppm_out` put on the decoder's pin, `dec.step 1`
(R91). -/
def pseudoLoopOnce (s : State) : Result :=
  match exec (.encStep 1#32) s with
  | .next s' => runActs [.envPinDec (if ppmOut s' then 1#8 else 0#8), .decStep 1#32] s'
  | .fault f => .fault f
  | .refused r => .refused r

/-- `loop.run N` (R91). -/
def pseudoLoopRun : Nat → State → Result
  | 0, s => .next s
  | n + 1, s =>
    match pseudoLoopOnce s with
    | .next s' => pseudoLoopRun n s'
    | .fault f => .fault f
    | .refused r => .refused r

end Sys2Proof.Machine
end

