-- ==== Sys2Proof/WellFormed.lean ====
section
/-!
DEFINITION. When an instruction is well formed: its operands are in the range its rule gives them
(30_encoding.md R72; for the message rows R78 and R192; for the counter rows R104).
-/

namespace Sys2Proof

open Machine

/-- The operands of `i` are in range. An action that is not well formed is refused (R86). -/
def Instr.wf (p : Params) : Instr → Bool
  | .decStep delta => deltaOk p delta
  | .encStep delta => deltaOk p delta
  | .envResetDec => true
  | .envReadyDec => true
  | .envSendDec m => msgOk p m
  | .envKickDec => true
  | .envRecvDec => true
  | .envPinDec level => levelOk level
  | .envResetEnc => true
  | .envReadyEnc => true
  | .envSendEnc m => msgOk p m
  | .envKickEnc => true
  | .decIdleLow => true
  | .decIdleHigh => true
  | .decRiseGap => true
  | .decRiseChan => true
  | .decFallOk => true
  | .decFallLong => true
  | .encWait => true
  | .encRise => true
  | .encFallFirst => true
  | .encFallChan => true
  | .encFallPad => true
  | .decBridgeIdle => true
  | .decBridgeService => true
  | .encBridgeIdle => true
  | .encBridgeService => true
  | .decMsgDiscard m => msgOk p m
  | .encMsgApply m => msgOk p m && accept p m
  | .encMsgReject m => msgOk p m && !accept p m
  | .ctrTick _ delta => deltaOk p delta
  | .ctrRead _ => true
  | .ctrResetTick _ delta => deltaOk p delta

end Sys2Proof
end

