-- ==== Sys2Proof/Machine/Observe.lean ====
section
/-!
DEFINITION. The observation of a run (00_scope.md R14): the sequence of actions together with, after each action, the
output pin, the event output and the messages the host took. A run is a list of actions of the agents, in any
interleaving, with any Δ and any message the rules admit; and a run of `step` is one whose actions come from the
script's records (log 3, log 13).
-/

namespace Sys2Proof.Machine

/-- What is observed after an action (R14): the level on the output pin, the malformed event, and the messages the host
has taken so far, oldest first. -/
structure Observation where
  ppmOut : Bool
  malformed : Bool
  received : List Message
  deriving DecidableEq, Repr

/-- The observation of a state (R14). -/
def observe (s : State) : Observation :=
  { ppmOut := ppmOut s, malformed := s.dec.malformed, received := s.received }

/-- The action has a move in the state: a SEND needs room in the inbound queue, an ENV_RECV_DEC a queued reply, and
"Every other valid action is enabled in every state" (30_encoding.md R87). The selector rows are no actions. -/
def enabled (p : Params) (i : Instr) (s : State) : Bool :=
  match i with
  | .decStep _ => true
  | .encStep _ => true
  | .envResetDec => true
  | .envReadyDec => true
  | .envSendDec _ => decide (s.dec.inq.length < p.qInCap)
  | .envKickDec => true
  | .envRecvDec => !s.dec.outq.isEmpty
  | .envPinDec _ => true
  | .envResetEnc => true
  | .envReadyEnc => true
  | .envSendEnc _ => decide (s.enc.inq.length < p.qInCap)
  | .envKickEnc => true
  | .decIdleLow => false
  | .decIdleHigh => false
  | .decRiseGap => false
  | .decRiseChan => false
  | .decFallOk => false
  | .decFallLong => false
  | .encWait => false
  | .encRise => false
  | .encFallFirst => false
  | .encFallChan => false
  | .encFallPad => false
  | .decBridgeIdle => false
  | .decBridgeService => false
  | .encBridgeIdle => false
  | .encBridgeService => false
  | .decMsgDiscard _ => false
  | .encMsgApply _ => false
  | .encMsgReject _ => false
  | .ctrTick _ _ => false
  | .ctrRead _ => false
  | .ctrResetTick _ _ => false

/-- The action is a move: neither refused nor not enabled (60_exceptions.md R226). -/
def isMove (p : Params) (i : Instr) (s : State) : Bool := i.wf p && enabled p i s

/-- The entry of an action taken in `s` that led to `t`; none if it was no move (log 16). -/
def observed (i : Instr) (s t : State) : List (Instr × Observation) :=
  if isMove Config.params i s then [(i, observe t)] else []

/-- The observation of a run of actions (R14): each move with what is observed after it. -/
def observeActs : List Instr → State → List (Instr × Observation)
  | [], _ => []
  | i :: rest, s =>
    match exec i s with
    | .next t => observed i s t ++ observeActs rest t
    | .fault _ => []
    | .refused _ => []

/-- The observation of a run from its start (R14, 70_reset_and_hazards.md R232). -/
def observeRun (acts : List Instr) : List (Instr × Observation) := observeActs acts State.reset

/-- The entry of one step of the machine; none where its bytes are no record. -/
def observedStep (s t : State) : List (Instr × Observation) :=
  match fetch s with
  | .action i s' => observed i s' t
  | .rejected _ => []
  | .ended => []

/-- The observation of `n` steps, or of all up to the end of the script (R14, log 3). -/
def observeSteps : Nat → State → List (Instr × Observation)
  | 0, _ => []
  | n + 1, s =>
    match step s with
    | .next t => observedStep s t ++ observeSteps n t
    | .fault _ => []
    | .refused _ => []

end Sys2Proof.Machine
end

