-- ==== Sys2Proof/Safety.lean ====
section
/-!
DEFINITION. What counts as a good state and a good run, in the terms claims use: the invariants of 10_state.md
R44, a run without a refusal mark (30_encoding.md R86), and the nominal line frame of 30_encoding.md R83. The
observation of a run (00_scope.md R14) is in Machine/Observe.lean.
-/

namespace Sys2Proof.Safety

open Machine

/-- Every channel lies in [1000, 2000] (R44, second item; 41_decoder.md R137). -/
abbrev FrameInRange (f : Frame) : Prop := ∀ v ∈ f.toList, 1000 ≤ v.toNat ∧ v.toNat ≤ 2000

/-- The items of R44 about the decoder unit. -/
abbrev DecInvariant (p : Params) (d : DecState) : Prop :=
  d.idx.toNat ≤ 12 ∧ FrameInRange d.frame ∧ d.cyc.toNat ≤ cycMax ∧
    d.inq.length ≤ p.qInCap ∧ d.outq.length ≤ p.qOutCap ∧ (d.mode = .init → d.cyc = 0#32) ∧
    ∀ m ∈ d.outq, m.len = 24 ∧ m.src = p.decPort

/-- The items of R44 about the encoder unit. -/
abbrev EncInvariant (p : Params) (u : EncState) : Prop :=
  u.idx.toNat ≤ 12 ∧ u.cyc.toNat ≤ cycMax ∧ u.acc.toNat ≤ cycMax ∧ u.deadline.toNat ≤ cycMax ∧
    u.inq.length ≤ p.qInCap ∧ (u.mode = .init → u.cyc = 0#32)

/-- "Invariants that every reachable state satisfies" (R44). -/
abbrev Invariant (p : Params) (s : State) : Prop := DecInvariant p s.dec ∧ EncInvariant p s.enc

/-- Every queued message is a message of R68: len ≤ MSG_MAX and data of exactly len bytes. -/
abbrev QueuesHoldMessages (p : Params) (s : State) : Prop :=
  (∀ m ∈ s.dec.inq, msgOk p m = true) ∧ (∀ m ∈ s.enc.inq, msgOk p m = true) ∧
    ∀ m ∈ s.dec.outq, msgOk p m = true

/-- The step variables are at rest, as between any two actions (log 4). -/
abbrev VarsAtRest (s : State) : Prop := s.dec.vars = StepVars.rest ∧ s.enc.vars = StepVars.rest

/-- No action of the run so far was refused: "No run with a refusal mark satisfies a claim" (R86). -/
abbrev Unmarked (s : State) : Prop := s.refusalMark = false

/-- The unit whose state a row is about: the U bit of an action word (R71), the unit of a selector row. -/
def unitOf : Instr → UnitId
  | .decStep _ => .dec
  | .encStep _ => .enc
  | .envResetDec => .dec
  | .envReadyDec => .dec
  | .envSendDec _ => .dec
  | .envKickDec => .dec
  | .envRecvDec => .dec
  | .envPinDec _ => .dec
  | .envResetEnc => .enc
  | .envReadyEnc => .enc
  | .envSendEnc _ => .enc
  | .envKickEnc => .enc
  | .decIdleLow => .dec
  | .decIdleHigh => .dec
  | .decRiseGap => .dec
  | .decRiseChan => .dec
  | .decFallOk => .dec
  | .decFallLong => .dec
  | .encWait => .enc
  | .encRise => .enc
  | .encFallFirst => .enc
  | .encFallChan => .enc
  | .encFallPad => .enc
  | .decBridgeIdle => .dec
  | .decBridgeService => .dec
  | .encBridgeIdle => .enc
  | .encBridgeService => .enc
  | .decMsgDiscard _ => .dec
  | .encMsgApply _ => .enc
  | .encMsgReject _ => .enc
  | .ctrTick u _ => u
  | .ctrRead u => u
  | .ctrResetTick u _ => u

/-- The nominal length of rest i for channel value v, clamped (R83). -/
def restCycles (p : Params) (v : Chan) : Nat := clamp v.toNat * p.cpu - p.pulseC

/-- Σ v_i · CPU over the clamped channel values (R83). -/
def chanCycles (p : Params) (f : Frame) : Nat := (f.toList.map fun v : Chan => clamp v.toNat * p.cpu).sum

/-- The segments of a nominal line frame, each a level and a length in cycles: 12 pairs of a pulse and a rest,
the 13th pulse, the padding (R83). -/
def lineFrame (p : Params) (f : Frame) : List (Bool × Nat) :=
  (f.toList.flatMap fun v : Chan => [(true, p.pulseC), (false, restCycles p v)]) ++
    [(true, p.pulseC),
     (false, (satW ((p.frameC : Int) - (p.pulseC : Int) - (chanCycles p f : Int))).toNat)]

end Sys2Proof.Safety
end

