-- ==== Sys2Proof/Certificates/Slice0/Obligations.lean ====
section
/-!
DEFINITION. The statements for the provers, from the numbered rules of spec/. Each docstring names its rules,
and the log entries of what is the model's own.
-/

open Sys2Proof Sys2Proof.Machine Sys2Proof.Safety

/-! ## Encoding -/

/-- Decoding a serialised record gives back the action, with every operand the record can hold, and leaves the
bytes after it (R71, R73). -/
def Obligations.DecodeReadsEncodedRecord : Prop :=
  ∀ (i : Instr) (bs rest : List Byte),
    i.encodable = true → encode i = some bs → decode (bs ++ rest) = .ok (i, rest)

/-- What the decoder accepts is exactly a record of the action it gives: no accepted byte is dropped or read as
something else (R73). -/
def Obligations.DecodedBytesAreTheRecord : Prop :=
  ∀ (bs rest : List Byte) (i : Instr), decode bs = .ok (i, rest) →
    i.encodable = true ∧ ∃ pre, encode i = some pre ∧ bs = pre ++ rest

/-- The words of R71 and the reserved words of R85: each action has one word, and a word is no action exactly
when R85 reserves it; a CSEL code is reserved exactly when it is 11, an ESEL pattern exactly when F = Z = 1. -/
def Obligations.ReservedWordsAreExactlyThoseOfR85 : Prop :=
  (∀ a : Act, decodeAct a.word = some a) ∧
  (∀ w : BitVec 5, decodeAct w = none ↔
    (1 ≤ w.toNat ∧ w.toNat ≤ 7) ∨ (9 ≤ w.toNat ∧ w.toNat ≤ 15) ∨ w.toNat = 22 ∨ w.toNat = 23 ∨ 28 ≤ w.toNat) ∧
  (∀ w : BitVec 2, decodeCsel w = none ↔ w = 0b11#2) ∧
  (∀ w : BitVec 4, decodeEsel w = none ↔ w.getLsbD 1 = true ∧ w.getLsbD 0 = true)

/-- Records written out from R73 and 95_test_vectors.md section 3 decode to the actions they stand for. -/
def Obligations.WrittenRecordsDecode : Prop :=
  decode [0x00#8, 0x01#8, 0x00#8, 0x00#8, 0x00#8] = .ok (.decStep 1#32, []) ∧
  decode [0x08#8, 0x01#8, 0x00#8, 0x00#8, 0x00#8] = .ok (.encStep 1#32, []) ∧
  decode [0x15#8, 0x01#8, 0x11#8] = .ok (.envPinDec 1#8, [0x11#8]) ∧
  decode [0x12#8, 0x00#8, 0x04#8, 0x00#8, 0x00#8, 0x1E#8, 0x00#8, 0x00#8, 0x00#8, 0x01#8, 0x00#8, 0x00#8] =
    .ok (.envSendDec { src := 1024#32, dst := 30#32, len := 1, data := [0#8] }, []) ∧
  decode [0x16#8] = .error (.reserved 0x16#5) ∧ decode [0x20#8] = .error (.highBits 0x20#8)

/-! ## Arithmetic, frames and bytes -/

/-- R11: clamp(v) = min(max(v, 1000), 2000). -/
def Obligations.ClampBoundsToChannelRange : Prop :=
  ∀ v : Nat, clamp v = min (max v 1000) 2000 ∧ 1000 ≤ clamp v ∧ clamp v ≤ 2000 ∧ clamp (clamp v) = clamp v

/-- satW(x) = min(max(x, 0), CYC_MAX), over the integers (R10). -/
def Obligations.SatWSaturatesAtBothEnds : Prop :=
  ∀ x : Int, ((satW x).toNat : Int) = min (max x 0) 4294967295

/-- R52: `u.frame[i] <- v` makes `u.frame[i]` read v and changes no other channel. -/
def Obligations.ChannelWriteChangesOneChannel : Prop :=
  ∀ (f : Frame) (i j : Nat) (v : Chan), i < 12 → j < 12 →
    channel (setChannel f i v) j = if j = i then some v else channel f j

/-- R53: MemRead is the sum of image byte (a + k) times 256^k; MemWrite puts byte (v div 256^k) mod 256 at image
offset a + k and changes no other image byte; so MemRead of the bytes written gives v back. -/
def Obligations.MemWriteThenReadImage : Prop :=
  ∀ (f : Frame) (a n v : Nat), a + n ≤ 24 →
    memRead f a n = some ((List.range n).map fun k => ((imageByte f (a + k)).getD 0#8).toNat * 256 ^ k).sum ∧
    ∃ g, memWrite f a n v = some g ∧
      (∀ k, k < n → imageByte g (a + k) = some (BitVec.ofNat 8 (v / 256 ^ k))) ∧
      (∀ j, j < a ∨ a + n ≤ j → imageByte g j = imageByte f j) ∧
      memRead g a n = some (v % 256 ^ n)

/-- R54: pack(u) is 24 bytes, b[j] = MemRead(u, j, 1), b[2i] = frame[i] mod 256 and b[2i + 1] = frame[i] div
256. -/
def Obligations.PackLaysOutLittleEndian : Prop :=
  ∀ f : Frame, (pack f).length = 24 ∧
    (∀ j, j < 24 → ((pack f)[j]?).map (fun b : Byte => b.toNat) = memRead f j 1) ∧
    ∀ (i : Nat) (h : i < 12),
      (pack f)[2 * i]? = some (BitVec.ofNat 8 (f[i].toNat % 256)) ∧
      (pack f)[2 * i + 1]? = some (BitVec.ofNat 8 (f[i].toNat / 256))

/-- R55: unpack reads b[2i] + 256 · b[2i + 1] into channel i, and pack and unpack are inverse to each other. -/
def Obligations.UnpackInvertsPack : Prop :=
  (∀ f : Frame, unpack (pack f) = f) ∧
  (∀ b : List Byte, b.length = 24 → pack (unpack b) = b) ∧
  (∀ (b : List Byte) (i : Nat) (h : i < 12), 24 ≤ b.length →
    (unpack b)[i].toNat = (b.getD (2 * i) 0#8).toNat + 256 * (b.getD (2 * i + 1) 0#8).toNat)

/-! ## Cycle counter rows -/

/-- R103 on both units, CSEL = 00: `u.cyc <- satW(u.cyc + Δ)`, and nothing else changes. -/
def Obligations.CtrTickSaturatingAdvance : Prop :=
  decodeCsel 0b00#2 = some .tick ∧
  ∀ (s : State) (delta : Cyc),
    exec (.ctrTick .dec delta) s = .next (s.withDec { s.dec with
      cyc := BitVec.ofNat 32 (min (s.dec.cyc.toNat + delta.toNat) 4294967295) }) ∧
    exec (.ctrTick .enc delta) s = .next (s.withEnc { s.enc with
      cyc := BitVec.ofNat 32 (min (s.enc.cyc.toNat + delta.toNat) 4294967295) })

/-- On both units CTR_RESET_TICK, CSEL = 10, leaves the counter at satW(0 + Δ) = Δ and changes nothing else (R104);
CTR_READ leaves the counter's value in e and changes no register. That e stands in a step variable of State is the
model's choice (log 4). -/
def Obligations.CtrReadAndResetTick : Prop :=
  decodeCsel 0b10#2 = some .resetTick ∧
  ∀ (s : State) (delta : Cyc),
    exec (.ctrRead .dec) s = .next (s.withDec { s.dec with vars := { s.dec.vars with e := s.dec.cyc } }) ∧
    exec (.ctrRead .enc) s = .next (s.withEnc { s.enc with vars := { s.enc.vars with e := s.enc.cyc } }) ∧
    exec (.ctrResetTick .dec delta) s = .next (s.withDec { s.dec with cyc := delta }) ∧
    exec (.ctrResetTick .enc delta) s = .next (s.withEnc { s.enc with cyc := delta })

/-! ## Case rows -/

/-- The rows whose pseudocode is `skip` change nothing (R126, R127, R155, R183, R188, R191). -/
def Obligations.SkipRowsChangeNothing : Prop :=
  ∀ (s : State) (m : Message),
    exec .decIdleLow s = .next s ∧ exec .decIdleHigh s = .next s ∧ exec .encWait s = .next s ∧
    exec .decBridgeIdle s = .next s ∧ exec .encBridgeIdle s = .next s ∧ exec (.encMsgReject m) s = .next s

/-- The decoder's edge rows that store no channel (R128, R131, R132): each requests the counter reset, DEC_RISE_GAP
zeroes the index, DEC_FALL_LONG raises the event. rst is a step variable (log 4). -/
def Obligations.DecoderEdgeRows : Prop :=
  ∀ s : State,
    exec .decRiseGap s = .next (s.withDec { s.dec with idx := 0#4, vars := { s.dec.vars with rst := true } }) ∧
    exec .decFallOk s = .next (s.withDec { s.dec with vars := { s.dec.vars with rst := true } }) ∧
    exec .decFallLong s = .next (s.withDec { s.dec with
      malformed := true, vars := { s.dec.vars with rst := true } })

/-- DEC_RISE_CHAN with a channel at `dec.idx` (R129, R130): the clamped value is stored there, the index advances,
the reset is requested, and nothing else changes. e and rst are step variables (log 4). -/
def Obligations.DecRiseChanRowStores : Prop :=
  ∀ (s : State) (h : s.dec.idx.toNat < 12),
    exec .decRiseChan s = .next (s.withDec { s.dec with
      frame := s.dec.frame.set s.dec.idx.toNat
        (BitVec.ofNat 16 (min (max (s.dec.vars.e.toNat / Config.params.cpu + 300) 1000) 2000)) h
      idx := BitVec.ofNat 4 (s.dec.idx.toNat + 1)
      vars := { s.dec.vars with rst := true } })

/-- ENC_RISE (R156, R160): with o = e − `enc.deadline`, the level toggled, e accumulated, the deadline
satW(PULSE_C − o), the reset requested, the index kept. e and rst are step variables (log 4). -/
def Obligations.EncRiseRow : Prop :=
  ∀ s : State,
    exec .encRise s = .next (s.withEnc { s.enc with
      level := !s.enc.level
      acc := satW (s.enc.acc.toNat + s.enc.vars.e.toNat)
      deadline := satW (300 * (Config.params.cpu : Int) - ((s.enc.vars.e.toNat : Int) - s.enc.deadline.toNat))
      vars := { s.enc.vars with rst := true } })

/-- ENC_FALL_FIRST (R157, R160): the seed e replaces the accumulated sum, rest 0 is scheduled, the index is 1. e and
rst are step variables (log 4). -/
def Obligations.EncFallFirstRow : Prop :=
  ∀ s : State,
    exec .encFallFirst s = .next (s.withEnc { s.enc with
      level := !s.enc.level
      acc := s.enc.vars.e
      deadline := satW ((min (max s.enc.frame[0].toNat 1000) 2000 : Nat) * (Config.params.cpu : Int)
        - 300 * (Config.params.cpu : Int) - ((s.enc.vars.e.toNat : Int) - s.enc.deadline.toNat))
      idx := 1#4
      vars := { s.enc.vars with rst := true } })

/-- ENC_FALL_CHAN with a channel at `enc.idx` (R158, R160): rest i is scheduled from the clamped channel, and the
index advances. e and rst are step variables (log 4). -/
def Obligations.EncFallChanRow : Prop :=
  ∀ (s : State) (h : s.enc.idx.toNat < 12),
    exec .encFallChan s = .next (s.withEnc { s.enc with
      level := !s.enc.level
      acc := satW (s.enc.acc.toNat + s.enc.vars.e.toNat)
      deadline := satW ((min (max s.enc.frame[s.enc.idx.toNat].toNat 1000) 2000 : Nat) * (Config.params.cpu : Int)
        - 300 * (Config.params.cpu : Int) - ((s.enc.vars.e.toNat : Int) - s.enc.deadline.toNat))
      idx := BitVec.ofNat 4 (s.enc.idx.toNat + 1)
      vars := { s.enc.vars with rst := true } })

/-- ENC_FALL_PAD (R159, R160): the padding is scheduled from the accumulator as the common part leaves it, and the
index is 0. e and rst are step variables (log 4). -/
def Obligations.EncFallPadRow : Prop :=
  ∀ s : State,
    exec .encFallPad s = .next (s.withEnc { s.enc with
      level := !s.enc.level
      acc := satW (s.enc.acc.toNat + s.enc.vars.e.toNat)
      deadline := satW (22500 * (Config.params.cpu : Int)
        - (min (s.enc.acc.toNat + s.enc.vars.e.toNat) 4294967295 : Nat)
        - ((s.enc.vars.e.toNat : Int) - s.enc.deadline.toNat))
      idx := 0#4
      vars := { s.enc.vars with rst := true } })

/-! ## Bridge rows -/

/-- DEC_MSG_DISCARD (R185), MSEL = 0 x: `dec.peer <- m.src`, for any message, and nothing else changes. -/
def Obligations.DecMsgDiscardKeepsOnlySource : Prop :=
  decodeMsel 0b00#2 = .decDiscard ∧ decodeMsel 0b01#2 = .decDiscard ∧
  ∀ (s : State) (m : Message), exec (.decMsgDiscard m) s = .next (s.withDec { s.dec with peer := m.src })

/-- ENC_MSG_APPLY, MSEL = 11, of a message with len = |data| (R190): image bytes 0 to min(len, 24) − 1 are the message's, every
other image byte and everything else is unchanged. -/
def Obligations.EncMsgApplyCopiesBytes : Prop :=
  decodeMsel 0b11#2 = .encApply ∧
  ∀ (s : State) (m : Message), m.len = m.data.length →
    ∃ g : Frame, exec (.encMsgApply m) s = .next (s.withEnc { s.enc with frame := g }) ∧
      (∀ j, j < min m.len 24 → imageByte g j = m.data[j]?) ∧
      (∀ j, min m.len 24 ≤ j → imageByte g j = imageByte s.enc.frame j)

/-- DEC_BRIDGE_SERVICE, BSEL = 01 (R184 to R187, R199): the signal is cleared, the N ≥ 0 messages are all drained, the peer is
the source of the last one, and exactly one reply is pushed, or dropped when `dec.outq` is full. -/
def Obligations.DecBridgeServiceDrainsAndReplies : Prop :=
  decodeBsel 0b01#2 = .decService ∧
  ∀ s : State,
    let peer := (s.dec.inq.getLast?.map Message.src).getD s.dec.peer
    exec .decBridgeService s = .next (s.withDec { s.dec with
      kick := false
      inq := []
      peer := peer
      outq := if s.dec.outq.length < Config.params.qOutCap
        then s.dec.outq ++ [{ src := Config.params.decPort, dst := peer, len := 24, data := pack s.dec.frame }]
        else s.dec.outq })

/-- ENC_BRIDGE_SERVICE, BSEL = 11 (R57, R189 to R191): the signal is cleared, the queue drained, and only the frame is
written. Its new value is the fold over the queue, oldest first, of writing the bytes each accepted message applies
(log 12 for one with len ≠ |data|). So with messages of R68 image byte j is byte j of the last accepted message that
covers it, and is unchanged where none does. -/
def Obligations.EncBridgeServiceDrains : Prop :=
  decodeBsel 0b11#2 = .encService ∧
  ∀ s : State, ∃ g : Frame,
    exec .encBridgeService s = .next (s.withEnc { s.enc with kick := false, inq := [], frame := g }) ∧
    g = s.enc.inq.foldl
      (fun f m => if accept Config.params m then setImageBytes f 0 (appliedBytes m) else f) s.enc.frame ∧
    ((∀ m ∈ s.enc.inq, m.len = m.data.length) → ∀ j, imageByte g j =
      match (s.enc.inq.filter fun m => accept Config.params m && decide (j < min m.len 24)).getLast? with
      | some m => m.data[j]?
      | none => imageByte s.enc.frame j)

/-- R200: after a service, `enc.frame` is unpack of the data of the last accepted message of length 24, whatever came
before it, when only rejected messages follow it. -/
def Obligations.EncLastMessageWins : Prop :=
  ∀ (s : State) (before after : List Message) (m : Message),
    s.enc.inq = before ++ m :: after → m.len = 24 → m.data.length = 24 →
    (∀ x ∈ after, accept Config.params x = false) →
    exec .encBridgeService s =
      .next (s.withEnc { s.enc with kick := false, inq := [], frame := unpack m.data })

/-! ## Environment actions -/

/-- ENV_SEND_DEC and ENV_SEND_ENC of a message in range (R193, R194, R87): with room it goes to the tail of the
queue; with the queue full there is no move; nothing else changes. That a record with no move is passed over is
log 7. -/
def Obligations.SendAppendsOrHasNoMove : Prop :=
  ∀ (s : State) (m : Message), m.len ≤ Config.params.msgMax → m.len = m.data.length →
    exec (.envSendDec m) s = .next
      (if s.dec.inq.length < Config.params.qInCap then s.withDec { s.dec with inq := s.dec.inq ++ [m] } else s) ∧
    exec (.envSendEnc m) s = .next
      (if s.enc.inq.length < Config.params.qInCap then s.withEnc { s.enc with inq := s.enc.inq ++ [m] } else s)

/-- ENV_RECV_DEC (R197, R87): the oldest reply is removed and returned; with none there is no move; nothing else
changes. That what is returned stands in `received` is the model's choice (log 8). -/
def Obligations.RecvReturnsOldestReply : Prop :=
  ∀ s : State, exec .envRecvDec s = .next
    (match s.dec.outq with
     | [] => s
     | m :: rest => { s.withDec { s.dec with outq := rest } with received := s.received ++ [m] })

/-- ENV_KICK_u and ENV_READY_u (R195, R196, R233, R234): each sets its one bit, in every state, and nothing else; with
the words of the two kicks. -/
def Obligations.KickAndReadySetOneBit : Prop :=
  decodeAct 0b10011#5 = some .envKickDec ∧ decodeAct 0b11011#5 = some .envKickEnc ∧
  ∀ s : State,
    exec .envKickDec s = .next (s.withDec { s.dec with kick := true }) ∧
    exec .envKickEnc s = .next (s.withEnc { s.enc with kick := true }) ∧
    exec .envReadyDec s = .next (s.withDec { s.dec with ready := true }) ∧
    exec .envReadyEnc s = .next (s.withEnc { s.enc with ready := true })

/-- R136: ENV_PIN_DEC, word 1 0 101, sets `dec.pin_in` to its level in every state, and nothing else. -/
def Obligations.PinSetsInputLevel : Prop :=
  decodeAct 0b10101#5 = some .envPinDec ∧
  ∀ s : State, exec (.envPinDec 0#8) s = .next (s.withPin false) ∧
    exec (.envPinDec 1#8) s = .next (s.withPin true)

/-- R230, word 1 0 000: every `dec.*` register takes its reset value; the input pin, the encoder and everything else keep theirs.
The step variables are the model's own (log 4). -/
def Obligations.ResetDecRestoresResetValues : Prop :=
  decodeAct 0b10000#5 = some .envResetDec ∧
  ∀ s : State, exec .envResetDec s = .next (s.withDec {
    mode := .init, ready := false, cyc := 0#32, kick := false, inq := [], last := false, idx := 0#4,
    frame := Vector.replicate 12 1000#16, peer := 0#32, outq := [], malformed := false,
    vars := { e := 0#32, rst := false } })

/-- R231, word 1 1 000: every `enc.*` register takes its reset value, and everything else keeps its own. The step variables are the
model's own (log 4). -/
def Obligations.ResetEncRestoresResetValues : Prop :=
  decodeAct 0b11000#5 = some .envResetEnc ∧
  ∀ s : State, exec .envResetEnc s = .next (s.withEnc {
    mode := .init, ready := false, cyc := 0#32, kick := false, inq := [], level := false, idx := 0#4,
    acc := 0#32, deadline := 0#32, frame := Vector.replicate 12 1000#16,
    vars := { e := 0#32, rst := false } })

/-- A run starts in the state both resets leave (R232); the refusal mark is not set, and the script and the returned
messages are empty, which is the model's choice (log 3, log 5, log 8). -/
def Obligations.RunStartsFromBothResets : Prop :=
  ∀ s t u : State, exec .envResetDec s = .next t → exec .envResetEnc t = .next u →
    State.reset.dec = u.dec ∧ State.reset.enc = u.enc ∧
    State.reset.refusalMark = false ∧ State.reset.received = [] ∧ State.reset.script = []

/-! ## The decoder's step -/

/-- DEC_STEP in INIT mode (R122): the event is cleared; with `dec.ready` the unit goes to RUN with the counter 0;
nothing else changes, so the pin is not sampled and the bridge not serviced. -/
def Obligations.DecStepInitWaitsForReady : Prop :=
  decodeAct 0b00000#5 = some .decStep ∧
  ∀ (s : State) (delta : Cyc), 1 ≤ delta.toNat → delta.toNat ≤ Config.params.latMax → s.dec.mode = .init →
    exec (.decStep delta) s = .next (s.withDec
      (if s.dec.ready then { s.dec with malformed := false, mode := .run, cyc := 0#32 }
       else { s.dec with malformed := false }))

/-- DEC_STEP in RUN mode with no signal pending, for all six cases (R121, R123 to R133, R135), with e the counter and
i the wrapped index. -/
def Obligations.DecStepTakesItsCase : Prop :=
  ∀ (s : State) (delta : Cyc), 1 ≤ delta.toNat → delta.toNat ≤ Config.params.latMax →
    s.dec.mode = .run → s.dec.kick = false →
    let e := s.dec.cyc.toNat
    let i := if 12 ≤ s.dec.idx.toNat then 0 else s.dec.idx.toNat
    let rise := s.dec.last = false ∧ s.pinIn = true
    let gap := e > 1720 * Config.params.cpu
    exec (.decStep delta) s = .next (s.withDec { s.dec with
      malformed := decide (s.dec.last = true ∧ s.pinIn = false ∧ e > 320 * Config.params.cpu)
      last := s.pinIn
      idx := if rise then (if gap then 0#4 else BitVec.ofNat 4 (i + 1)) else BitVec.ofNat 4 i
      frame := if rise ∧ ¬ gap
        then setChannel s.dec.frame i (BitVec.ofNat 16 (min (max (e / Config.params.cpu + 300) 1000) 2000))
        else s.dec.frame
      cyc := if s.dec.last = s.pinIn then BitVec.ofNat 32 (min (e + delta.toNat) 4294967295) else delta
      vars := { e := 0#32, rst := false } })

/-- DEC_STEP in RUN mode with a signal pending (R134, R181, R184): what the step does without the signal, and then
the service, whose reply packs the frame as this step's timing part left it. -/
def Obligations.DecStepServicesAfterTiming : Prop :=
  ∀ (s t : State) (delta : Cyc), s.dec.mode = .run → s.dec.kick = true →
    1 ≤ delta.toNat → delta.toNat ≤ Config.params.latMax →
    exec (.decStep delta) (s.withDec { s.dec with kick := false }) = .next t →
    let peer := (s.dec.inq.getLast?.map Message.src).getD s.dec.peer
    exec (.decStep delta) s = .next (t.withDec { t.dec with
      inq := []
      peer := peer
      outq := if s.dec.outq.length < Config.params.qOutCap
        then s.dec.outq ++ [{ src := Config.params.decPort, dst := peer, len := 24, data := pack t.dec.frame }]
        else s.dec.outq })

/-! ## The encoder's step -/

/-- ENC_STEP in INIT mode (R152): with `enc.ready` the unit goes to RUN with the counter 0; otherwise nothing
changes. -/
def Obligations.EncStepInitWaitsForReady : Prop :=
  decodeAct 0b01000#5 = some .encStep ∧
  ∀ (s : State) (delta : Cyc), 1 ≤ delta.toNat → delta.toNat ≤ Config.params.latMax → s.enc.mode = .init →
    exec (.encStep delta) s = .next
      (if s.enc.ready then s.withEnc { s.enc with mode := .run, cyc := 0#32 } else s)

/-- ENC_STEP before the deadline (R155): only the counter advances. -/
def Obligations.EncStepWaitsBeforeDeadline : Prop :=
  ∀ (s : State) (delta : Cyc), 1 ≤ delta.toNat → delta.toNat ≤ Config.params.latMax →
    s.enc.mode = .run → s.enc.kick = false → s.enc.cyc.toNat < s.enc.deadline.toNat →
    exec (.encStep delta) s = .next (s.withEnc { s.enc with
      cyc := BitVec.ofNat 32 (min (s.enc.cyc.toNat + delta.toNat) 4294967295)
      vars := { e := 0#32, rst := false } })

/-- ENC_STEP at a hit with the pin LOW (R153, R156, R160): the pin rises, the pulse is scheduled less the overshoot,
the counter is left at Δ, the index is kept whatever it is. -/
def Obligations.EncStepRaisesPin : Prop :=
  ∀ (s : State) (delta : Cyc), 1 ≤ delta.toNat → delta.toNat ≤ Config.params.latMax →
    s.enc.mode = .run → s.enc.kick = false → s.enc.deadline.toNat ≤ s.enc.cyc.toNat → s.enc.level = false →
    exec (.encStep delta) s = .next (s.withEnc { s.enc with
      level := true
      acc := satW (s.enc.acc.toNat + s.enc.cyc.toNat)
      deadline := satW (300 * (Config.params.cpu : Int) - ((s.enc.cyc.toNat : Int) - s.enc.deadline.toNat))
      cyc := delta
      vars := { e := 0#32, rst := false } })

/-- ENC_STEP at a hit with the pin HIGH and the index at i < 12 (R157, R158, R160, R162): the pin falls, rest i is
scheduled from the clamped channel i less the overshoot, the index advances, the counter is left at Δ; at i = 0 the
accumulator is seeded with e. -/
def Obligations.EncStepSchedulesRest : Prop :=
  ∀ (s : State) (delta : Cyc) (h : s.enc.idx.toNat < 12), 1 ≤ delta.toNat → delta.toNat ≤ Config.params.latMax →
    s.enc.mode = .run → s.enc.kick = false → s.enc.deadline.toNat ≤ s.enc.cyc.toNat → s.enc.level = true →
    exec (.encStep delta) s = .next (s.withEnc { s.enc with
      level := false
      acc := if s.enc.idx.toNat = 0 then s.enc.cyc else satW (s.enc.acc.toNat + s.enc.cyc.toNat)
      deadline := satW ((min (max s.enc.frame[s.enc.idx.toNat].toNat 1000) 2000 : Nat) * (Config.params.cpu : Int)
        - 300 * (Config.params.cpu : Int) - ((s.enc.cyc.toNat : Int) - s.enc.deadline.toNat))
      idx := BitVec.ofNat 4 (s.enc.idx.toNat + 1)
      cyc := delta
      vars := { e := 0#32, rst := false } })

/-- ENC_STEP at a hit with the pin HIGH and the index at 12 (R159, R160): the pin falls, the padding is scheduled, the
index is 0, the counter is left at Δ. -/
def Obligations.EncStepSchedulesPadding : Prop :=
  ∀ (s : State) (delta : Cyc), 1 ≤ delta.toNat → delta.toNat ≤ Config.params.latMax →
    s.enc.mode = .run → s.enc.kick = false → s.enc.deadline.toNat ≤ s.enc.cyc.toNat → s.enc.level = true →
    s.enc.idx = 12#4 →
    exec (.encStep delta) s = .next (s.withEnc { s.enc with
      level := false
      acc := satW (s.enc.acc.toNat + s.enc.cyc.toNat)
      deadline := satW (22500 * (Config.params.cpu : Int)
        - (min (s.enc.acc.toNat + s.enc.cyc.toNat) 4294967295 : Nat)
        - ((s.enc.cyc.toNat : Int) - s.enc.deadline.toNat))
      idx := 0#4
      cyc := delta
      vars := { e := 0#32, rst := false } })

/-- ENC_STEP in RUN mode with a signal pending (R163, R170, R181, R189): what the step does without the signal, which
uses the old frame, and then the service. -/
def Obligations.EncStepServicesAfterTiming : Prop :=
  ∀ (s t u : State) (delta : Cyc), s.enc.mode = .run → s.enc.kick = true →
    1 ≤ delta.toNat → delta.toNat ≤ Config.params.latMax →
    exec (.encStep delta) (s.withEnc { s.enc with kick := false }) = .next t →
    exec .encBridgeService s = .next u →
    exec (.encStep delta) s = .next (t.withEnc { t.enc with inq := [], frame := u.enc.frame })

/-! ## Refusals and the run -/

/-- An action whose operand is out of range is refused (R72, R86, R226): nothing changes but the refusal mark. -/
def Obligations.OutOfRangeOperandIsRefused : Prop :=
  ∀ (s : State) (delta : Cyc) (level : Byte) (m : Message),
    (delta.toNat = 0 ∨ delta.toNat > Config.params.latMax →
      exec (.decStep delta) s = .next { s with refusalMark := true } ∧
      exec (.encStep delta) s = .next { s with refusalMark := true }) ∧
    (2 ≤ level.toNat → exec (.envPinDec level) s = .next { s with refusalMark := true }) ∧
    (m.len > Config.params.msgMax ∨ m.len ≠ m.data.length →
      exec (.envSendDec m) s = .next { s with refusalMark := true } ∧
      exec (.envSendEnc m) s = .next { s with refusalMark := true })

/-- A step performs the action of the next record on the state without that record. That a step of the run takes its
action from the script is the model's choice (log 3). -/
def Obligations.StepPerformsNextRecord : Prop :=
  ∀ (s : State) (i : Instr) (rest : List Byte), decode s.script = .ok (i, rest) →
    step s = exec i { s with script := rest }

/-- A reserved word, or a byte 0 with bits [7:5] not 0, is refused (R73, R85, R86): nothing of the machine changes but
the refusal mark, and the run goes on with the next byte (log 6). -/
def Obligations.StepRefusesReservedByte : Prop :=
  ∀ (s : State) (b : Byte) (rest : List Byte), s.script = b :: rest →
    (32 ≤ b.toNat ∨ decodeAct (b.setWidth 5) = none) →
    step s = .next { s with script := rest, refusalMark := true }

/-- No instruction is without a meaning; the only stop of one is an access to a channel outside 0 to 11; and with no
channel at the index DEC_RISE_CHAN and ENC_FALL_CHAN do stop so (R210, R52; the stop is the model's choice, log
10). -/
def Obligations.InstructionsStopOnlyOutsideChannels : Prop :=
  (∀ (i : Instr) (s : State),
    (∀ r, exec i s ≠ .refused r) ∧ (∀ f, exec i s = .fault f → ∃ n, 12 ≤ n ∧ f = .noChannel n)) ∧
  (∀ s : State, 12 ≤ s.dec.idx.toNat → exec .decRiseChan s = .fault (.noChannel s.dec.idx.toNat)) ∧
  (∀ s : State, 12 ≤ s.enc.idx.toNat → exec .encFallChan s = .fault (.noChannel s.enc.idx.toNat))

/-- With a record left and the encoder's index in its legal range, every step answers a next state (R87, R210): no
operand, queue or message stops the run. -/
def Obligations.StepNeverStopsMidRun : Prop :=
  ∀ s : State, s.enc.idx.toNat ≤ 12 → s.script ≠ [] → ∃ t, step s = .next t

/-! ## Invariants and frames of the whole machine -/

/-- The invariants of R44 are kept by every step, from every state that meets them. -/
def Obligations.InvariantKeptByEveryStep : Prop :=
  ∀ s t : State, Invariant Config.params s → step s = .next t → Invariant Config.params t

/-- The start of a run meets the invariants of R44. -/
def Obligations.ResetMeetsInvariant : Prop := Invariant Config.params State.reset

/-- Two invariants of the model's own: every queued message is a message of R68, and the step variables are at rest
between actions (log 4). Every step keeps both. -/
def Obligations.QueuedMessagesStayMessages : Prop :=
  ∀ s t : State, QueuesHoldMessages Config.params s → VarsAtRest s → step s = .next t →
    QueuesHoldMessages Config.params t ∧ VarsAtRest t

/-- The units share nothing (R2, R20): a row of one unit leaves the other's state as it was; only ENV_PIN_DEC writes
the pin, only ENV_RECV_DEC returns a message, and no row writes the script. -/
def Obligations.RowsOfOneUnitLeaveTheOther : Prop :=
  ∀ (i : Instr) (s t : State), exec i s = .next t →
    (unitOf i = .dec → t.enc = s.enc) ∧ (unitOf i = .enc → t.dec = s.dec) ∧
    ((∀ l, i ≠ .envPinDec l) → t.pinIn = s.pinIn) ∧ (i ≠ .envRecvDec → t.received = s.received) ∧
    t.script = s.script

/-- What the decoder does depends on the decoder and its pin alone, what the encoder does on the encoder alone (R20,
R62). -/
def Obligations.UnitOutcomeIndependentOfTheOther : Prop :=
  ∀ (i : Instr) (s s' t : State), exec i s = .next t →
    (unitOf i = .dec → s'.dec = s.dec → s'.pinIn = s.pinIn →
      ∃ t', exec i s' = .next t' ∧ t'.dec = t.dec ∧ t'.pinIn = t.pinIn) ∧
    (unitOf i = .enc → s'.enc = s.enc → ∃ t', exec i s' = .next t' ∧ t'.enc = t.enc)

/-- The refusal mark lasts for the rest of the run, and a step sets it only where the next record is no record or its
operand is out of range (R86). -/
def Obligations.RefusalMarkLastsAndHasACause : Prop :=
  ∀ s t : State, step s = .next t →
    (s.refusalMark = true → t.refusalMark = true) ∧
    (s.refusalMark = false → t.refusalMark = true →
      (∃ r, decode s.script = .error r) ∨
      ∃ i rest, decode s.script = .ok (i, rest) ∧ i.wf Config.params = false)

/-- R144: a step changes `dec.frame` only by DEC_RISE_CHAN, which writes the clamped value into the channel at the
wrapped index and no other (R123, R129), or by a decoder reset, which makes every channel 1000. -/
def Obligations.DecFrameWrittenOnlyByRiseChan : Prop :=
  ∀ s t : State, step s = .next t → t.dec.frame ≠ s.dec.frame →
    ∃ i rest, decode s.script = .ok (i, rest) ∧
      (i = .envResetDec ∧ t.dec.frame = Vector.replicate 12 1000#16 ∨
       (∃ delta, i = .decStep delta) ∧ s.dec.mode = .run ∧ s.dec.last = false ∧ s.pinIn = true ∧
        s.dec.cyc.toNat ≤ 1720 * Config.params.cpu ∧
        t.dec.frame = setChannel s.dec.frame (if 12 ≤ s.dec.idx.toNat then 0 else s.dec.idx.toNat)
          (BitVec.ofNat 16 (min (max (s.dec.cyc.toNat / Config.params.cpu + 300) 1000) 2000)))

/-- R161: `ppm_out` shows `enc.level` at every instant, and of the actions of the agents only an ENC_STEP with a hit and
the encoder's reset change it; the reset drives it LOW. -/
def Obligations.OutputPinChangesOnlyAtHitOrReset : Prop :=
  (∀ s : State, ppmOut s = s.enc.level) ∧
  (∀ s t : State, exec .envResetEnc s = .next t → ppmOut t = false) ∧
  ∀ (i : Instr) (s t : State), i.format = .act → exec i s = .next t → ppmOut t ≠ ppmOut s →
    i = .envResetEnc ∨
    (∃ delta, i = .encStep delta) ∧ s.enc.mode = .run ∧ s.enc.deadline.toNat ≤ s.enc.cyc.toNat

/-- The only mode changes are INIT to RUN, by a STEP of the unit that finds ready set, and RUN to INIT, by the unit's
reset (R21), and only the unit's reset clears ready (R22). -/
def Obligations.ModeAndReadyTransitions : Prop :=
  ∀ s t : State, step s = .next t → ∀ i rest, decode s.script = .ok (i, rest) →
    (s.dec.mode = .init → t.dec.mode = .run → s.dec.ready = true ∧ ∃ delta, i = .decStep delta) ∧
    (s.dec.mode = .run → t.dec.mode = .init → i = .envResetDec) ∧
    (s.dec.ready = true → t.dec.ready = false → i = .envResetDec) ∧
    (s.enc.mode = .init → t.enc.mode = .run → s.enc.ready = true ∧ ∃ delta, i = .encStep delta) ∧
    (s.enc.mode = .run → t.enc.mode = .init → i = .envResetEnc) ∧
    (s.enc.ready = true → t.enc.ready = false → i = .envResetEnc)

/-! ## Runs of several actions -/

/-- Meaning of a read (R107): over decoder steps with no edge, the counter is the saturated sum of their Δ on top of
what it was. -/
def Obligations.CounterIsSumOfDeltas : Prop :=
  ∀ (ds : List Cyc) (s : State),
    (∀ d ∈ ds, 1 ≤ d.toNat ∧ d.toNat ≤ Config.params.latMax) →
    s.dec.mode = .run → s.dec.kick = false → s.dec.last = s.pinIn → s.dec.idx.toNat < 12 →
    s.dec.malformed = false → VarsAtRest s →
    runActs (ds.map .decStep) s = .next (s.withDec { s.dec with
      cyc := satW (s.dec.cyc.toNat + (ds.map BitVec.toNat).sum) })

/-- A pulse's fall, a LOW of l steps with l in the channel range, and the next rise store clamp(l div CPU + 300) at the
index (R129, R131, R140), with Δ = 1. -/
def Obligations.LowSegmentIsStoredAsChannel : Prop :=
  ∀ (s : State) (l : Nat) (h : s.dec.idx.toNat < 12),
    s.dec.mode = .run → s.dec.kick = false → s.dec.last = true →
    1 ≤ l → l ≤ 1720 * Config.params.cpu →
    runActs (pseudoHold false l ++ pseudoHold true 1) s = .next ((s.withPin true).withDec { s.dec with
      malformed := false
      last := true
      frame := s.dec.frame.set s.dec.idx.toNat
        (BitVec.ofNat 16 (min (max (l / Config.params.cpu + 300) 1000) 2000)) h
      idx := BitVec.ofNat 4 (s.dec.idx.toNat + 1)
      cyc := 1#32
      vars := { e := 0#32, rst := false } })

/-- Resynchronisation (R128, R138): a LOW of more than MAX_GAP_C steps of Δ = 1 ends with the index at 0, whatever it
was, and stores nothing. -/
def Obligations.LongLowResynchronises : Prop :=
  ∀ (s : State) (l : Nat), s.dec.mode = .run → s.dec.kick = false → s.dec.last = true →
    1720 * Config.params.cpu < l →
    runActs (pseudoHold false l ++ pseudoHold true 1) s = .next ((s.withPin true).withDec { s.dec with
      malformed := false
      last := true
      idx := 0#4
      cyc := 1#32
      vars := { e := 0#32, rst := false } })

/-- A host read (R91, R223): with the decoder running and its queues empty, it returns exactly one message, the
decoder's frame, addressed to the reader. -/
def Obligations.HostReadReturnsOneFrame : Prop :=
  ∀ (s : State) (src : Endpoint), s.dec.mode = .run → s.dec.inq = [] → s.dec.outq = [] →
    ∃ t, runActs (pseudoHostRead Config.params src) s = .next t ∧
      t.received = s.received ++
        [{ src := Config.params.decPort, dst := src, len := 24, data := pack t.dec.frame }] ∧
      t.dec.inq = [] ∧ t.dec.outq = [] ∧ t.dec.kick = false ∧ t.dec.peer = src

/-- A host write (R91, R223): with the encoder running and its queue empty, the encoder holds the written frame after
its next step. -/
def Obligations.HostWriteReplacesFrame : Prop :=
  ∀ (s : State) (src : Endpoint) (f : Frame), s.enc.mode = .run → s.enc.inq = [] → s.enc.idx.toNat ≤ 12 →
    ∃ t, runActs (pseudoHostWrite Config.params src f ++ [.encStep 1#32]) s = .next t ∧
      t.enc.frame = f ∧ t.enc.inq = [] ∧ t.enc.kick = false

/-- Under Δ = 1 a line frame lasts exactly FRAME_C (R166, R250): from the step after the hit that raised pulse 0,
FRAME_C steps bring the encoder back to the same point of the next line frame, where Σ clamp(v) · CPU leaves a padding
of at least one cycle. -/
def Obligations.LineFrameLastsFrameC : Prop :=
  ∀ s : State, s.enc.mode = .run → s.enc.kick = false → s.enc.level = true → s.enc.idx = 0#4 →
    s.enc.cyc = 1#32 → s.enc.deadline.toNat = 300 * Config.params.cpu →
    300 * Config.params.cpu + chanCycles Config.params s.enc.frame + 1 ≤ 22500 * Config.params.cpu →
    runActs (pseudoEncRun (22500 * Config.params.cpu)) s = .next (s.withEnc { s.enc with
      acc := BitVec.ofNat 32 (22500 * Config.params.cpu)
      vars := { e := 0#32, rst := false } })
end

