-- ==== Sys2Proof/Laws/Arith.lean ====
section
/-!
SUPPORT. satW, clamp and the stored channel value.
-/

namespace Sys2Proof.Machine

theorem satW_toNat (x : Int) : (satW x).toNat = min x.toNat cycMax := by
  simp only [satW, BitVec.toNat_ofNat, cycMax]
  omega

theorem satW_le (x : Int) : (satW x).toNat ≤ cycMax := by
  rw [satW_toNat]
  exact Nat.min_le_right _ _

/-- A value that fits is unchanged by satW. -/
theorem satW_of_toNat (v : Cyc) : satW (v.toNat : Int) = v := by
  apply BitVec.eq_of_toNat_eq
  rw [satW_toNat]
  have := v.isLt
  simp only [Int.toNat_natCast, cycMax]
  omega

theorem clamp_ge (v : Nat) : 1000 ≤ clamp v := by
  simp only [clamp, Config.chMin, Config.chMax]
  omega

theorem clamp_le (v : Nat) : clamp v ≤ 2000 := by
  simp only [clamp, Config.chMin, Config.chMax]
  omega

/-- A clamped value fits a channel. -/
theorem chanValue_toNat (p : Params) (e : Cyc) :
    (chanValue p e).toNat = clamp (e.toNat / p.cpu + Config.pulseUs) := by
  have := clamp_le (e.toNat / p.cpu + Config.pulseUs)
  simp only [chanValue, BitVec.toNat_ofNat]
  omega

theorem tickValue_toNat (c delta : Cyc) : (tickValue c delta).toNat = min (c.toNat + delta.toNat) cycMax := by
  simp only [tickValue, satW_toNat]
  omega

theorem resetTickValue_eq (delta : Cyc) : resetTickValue delta = delta := by
  simp [resetTickValue, satW_of_toNat]

/-- Every counter value is at most CYC_MAX (R101). -/
theorem cyc_le (c : Cyc) : c.toNat ≤ cycMax := by
  have h := c.isLt
  simp only [cycMax]
  omega

end Sys2Proof.Machine
end

