-- ==== Sys2Proof/Laws/Config.lean ====
section
/-!
SUPPORT. The machine's parameters are legal (00_scope.md R8), and what follows for the constants in cycles.
-/

namespace Sys2Proof

theorem Config.params_cpu_pos : 1 ≤ Config.params.cpu := by simp [Config.params]

theorem Config.params_cpu_le : Config.params.cpu ≤ 190887 := by
  have h := Config.cpuRaw.isLt
  simp only [Config.params]
  omega

theorem Config.params_latMax_pos : 1 ≤ Config.params.latMax := by simp [Config.params]

theorem Config.params_qInCap_pos : 1 ≤ Config.params.qInCap := by simp [Config.params]

theorem Config.params_qOutCap_pos : 1 ≤ Config.params.qOutCap := by simp [Config.params]

theorem Config.params_msgMax_ge : 24 ≤ Config.params.msgMax := by simp [Config.params]

theorem Config.params_ports_distinct : Config.params.decPort ≠ Config.params.encPort := by
  have hlt := Config.portGapRaw.isLt
  simp only [Config.params]
  intro h
  have h2 := congrArg BitVec.toNat h
  simp only [BitVec.toNat_add, BitVec.toNat_ofNat] at h2
  have h3 := Config.decPortRaw.isLt
  omega

/-- The parameters satisfy every constraint of R8. -/
theorem Config.params_legal : Config.params.Legal :=
  ⟨params_cpu_pos, params_cpu_le, params_latMax_pos, params_qInCap_pos, params_qOutCap_pos, params_msgMax_ge,
    params_ports_distinct⟩

/-- FRAME_C ≤ CYC_MAX for every legal CPU (R8). -/
theorem Params.frameC_le (p : Params) (h : p.cpu ≤ 190887) : p.frameC ≤ cycMax := by
  simp only [Params.frameC, Config.frameUs, cycMax]
  omega

end Sys2Proof
end

