-- ==== Sys2Proof/Laws/Frame.lean ====
section
/-!
SUPPORT. The channel frame and its byte image: reading after a write (20_memory.md R51 to R55).
-/

namespace Sys2Proof.Machine

theorem channel_eq_some (f : Frame) (i : Nat) (h : i < 12) : channel f i = some f[i] := by
  simp [channel, h]

theorem channel_eq_none (f : Frame) (i : Nat) (h : 12 ≤ i) : channel f i = none := by
  simp only [channel]
  exact Vector.getElem?_eq_none h

/-- Reading the channel just written gives the value written. -/
theorem channel_setChannel_same (f : Frame) (i : Nat) (v : Chan) (h : i < 12) :
    channel (setChannel f i v) i = some v := by
  simp [channel, setChannel, h]

/-- Writing a channel changes no other channel (R52). -/
theorem channel_setChannel_other (f : Frame) (i j : Nat) (v : Chan) (h : i ≠ j) :
    channel (setChannel f i v) j = channel f j := by
  simp [channel, setChannel, h]

/-- A write outside the frame changes nothing. -/
theorem setChannel_outside (f : Frame) (i : Nat) (v : Chan) (h : 12 ≤ i) : setChannel f i v = f := by
  simp only [setChannel]
  exact Vector.setIfInBounds_eq_of_size_le h

theorem pack_length (f : Frame) : (pack f).length = 24 := by
  have h : f.toList.length = 12 := by simp
  simp [pack, List.length_flatMap]

/-! ## The byte image -/

/-- Two bytes as one 16-bit value, the first the high one. -/
theorem append_toNat (hi lo : Byte) : (hi ++ lo : Chan).toNat = 256 * hi.toNat + lo.toNat := by
  have h : (hi ++ lo : BitVec (8 + 8)).toNat = 2 ^ 8 * hi.toNat + lo.toNat := by
    rw [BitVec.toNat_append, ← Nat.shiftLeft_add_eq_or_of_lt lo.isLt, Nat.shiftLeft_eq, Nat.mul_comm]
  exact h

theorem chanByte_toNat (v : Chan) (j : Nat) :
    (chanByte v j).toNat = if j % 2 = 0 then v.toNat % 256 else v.toNat / 256 := by
  have h := v.isLt
  unfold chanByte
  split
  · simp
  · simp only [BitVec.extractLsb'_toNat, Nat.shiftRight_eq_div_pow]
    omega

theorem setChanByte_toNat (v : Chan) (j : Nat) (b : Byte) :
    (setChanByte v j b).toNat =
      if j % 2 = 0 then 256 * (v.toNat / 256) + b.toNat else 256 * b.toNat + v.toNat % 256 := by
  unfold setChanByte
  split
  · rename_i h
    have h1 := chanByte_toNat v 1
    simp only [chanByte] at h1
    rw [append_toNat]
    exact congrArg (fun x => 256 * x + b.toNat) h1
  · have h0 := chanByte_toNat v 0
    simp only [chanByte] at h0
    rw [append_toNat]
    exact congrArg (fun x => 256 * b.toNat + x) h0

theorem unpackChan_toNat (b : List Byte) (i : Nat) :
    (unpackChan b i).toNat = 256 * (b.getD (2 * i + 1) 0#8).toNat + (b.getD (2 * i) 0#8).toNat := append_toNat _ _

/-- A channel's byte after one of its bytes is replaced (R53). -/
theorem chanByte_setChanByte (v : Chan) (a j : Nat) (b : Byte) :
    chanByte (setChanByte v a b) j = if j % 2 = a % 2 then b else chanByte v j := by
  have hb := b.isLt
  have hv := v.isLt
  apply BitVec.eq_of_toNat_eq
  rw [chanByte_toNat, setChanByte_toNat]
  rcases Nat.mod_two_eq_zero_or_one j with hj | hj <;> rcases Nat.mod_two_eq_zero_or_one a with ha | ha <;>
    simp only [hj, ha, if_true, if_false, one_ne_zero, zero_ne_one] <;> (try rw [chanByte_toNat]) <;>
    (try simp only [hj, if_true, if_false, one_ne_zero]) <;> omega

/-- A byte write changes that image byte and no other (R53). -/
theorem imageByte_setImageByte (f : Frame) (a j : Nat) (b : Byte) (ha : a < 24) :
    imageByte (setImageByte f a b) j = if j = a then some b else imageByte f j := by
  have h2 : a / 2 < 12 := by omega
  simp only [setImageByte, channel_eq_some _ _ h2, imageByte]
  by_cases hj : j / 2 = a / 2
  · rw [hj, channel_setChannel_same _ _ _ h2, channel_eq_some _ _ h2]
    simp only [Option.map_some, chanByte_setChanByte]
    by_cases hja : j = a
    · simp [hja]
    · have : ¬ j % 2 = a % 2 := by omega
      simp [hja, this]
  · rw [channel_setChannel_other _ _ _ _ (Ne.symm hj)]
    have : j ≠ a := by
      rintro rfl
      exact hj rfl
    simp [this]

/-- A byte string written from offset a on (R53, R190): its bytes stand there, and every other byte is kept. -/
theorem imageByte_setImageBytes (bs : List Byte) (f : Frame) (a j : Nat) (h : a + bs.length ≤ 24) :
    imageByte (setImageBytes f a bs) j =
      if a ≤ j ∧ j < a + bs.length then bs[j - a]? else imageByte f j := by
  induction bs generalizing f a with
  | nil =>
    rw [if_neg (by simp)]
    rfl
  | cons b bs ih =>
    simp only [List.length_cons] at h
    rw [setImageBytes, ih _ _ (by omega), imageByte_setImageByte _ _ _ _ (by omega)]
    by_cases hj : j = a
    · simp [hj]
    · by_cases h1 : a + 1 ≤ j ∧ j < a + 1 + bs.length
      · rw [if_pos h1, if_pos (by simp only [List.length_cons]; omega)]
        have : j - a = (j - (a + 1)) + 1 := by omega
        rw [this, List.getElem?_cons_succ]
      · rw [if_neg h1, if_neg hj, if_neg (by simp only [List.length_cons]; omega)]

/-- Past its 24 bytes a frame has none (R51). -/
theorem imageByte_eq_none (f : Frame) (j : Nat) (h : 24 ≤ j) : imageByte f j = none := by
  simp [imageByte, channel_eq_none f (j / 2) (by omega)]

/-- A frame is its byte image (R50, R51). -/
theorem frame_ext_imageByte (f g : Frame) (h : ∀ j, imageByte f j = imageByte g j) : f = g := by
  apply Vector.ext
  intro i hi
  have h0 := h (2 * i)
  have h1 := h (2 * i + 1)
  simp only [imageByte, show 2 * i / 2 = i by omega, show (2 * i + 1) / 2 = i by omega, channel_eq_some _ _ hi,
    Option.map_some, Option.some.injEq] at h0 h1
  have t0 := congrArg BitVec.toNat h0
  have t1 := congrArg BitVec.toNat h1
  rw [chanByte_toNat, chanByte_toNat] at t0 t1
  simp only [show 2 * i % 2 = 0 by omega, show (2 * i + 1) % 2 = 1 by omega, if_true, if_false, one_ne_zero] at t0 t1
  apply BitVec.eq_of_toNat_eq
  omega

/-- Byte j of a packed frame is image byte j (R54). -/
theorem pack_getElem (f : Frame) (j : Nat) : (pack f)[j]? = imageByte f j := by
  have h : ∀ (l : List Chan) (j : Nat), (l.flatMap fun v : Chan => [chanByte v 0, chanByte v 1])[j]? =
      (l[j / 2]?).map fun v => chanByte v j := by
    intro l
    induction l with
    | nil => simp
    | cons v l ih =>
      intro j
      match j with
      | 0 => rfl
      | 1 => rfl
      | j + 2 =>
        simp only [List.flatMap_cons, List.cons_append, List.nil_append, List.getElem?_cons_succ, ih,
          show (j + 2) / 2 = j / 2 + 1 by omega]
        congr 1
        funext v
        simp [chanByte]
  rw [pack, h, imageByte, channel, Vector.getElem?_toList]

/-- Image byte j of an unpacked byte string is its byte j (R55). -/
theorem imageByte_unpack (b : List Byte) (j : Nat) (hj : j < 24) : imageByte (unpack b) j = some (b.getD j 0#8) := by
  have h0 := (b.getD j 0#8).isLt
  simp only [imageByte, channel_eq_some _ _ (show j / 2 < 12 by omega), Option.map_some, unpack, Vector.getElem_ofFn,
    Option.some.injEq]
  apply BitVec.eq_of_toNat_eq
  rw [chanByte_toNat, unpackChan_toNat]
  have hl := (b.getD (2 * (j / 2)) 0#8).isLt
  rcases Nat.mod_two_eq_zero_or_one j with h | h
  · rw [if_pos h, show 2 * (j / 2) = j by omega] at *
    omega
  · rw [if_neg (by omega), show 2 * (j / 2) + 1 = j by omega]
    omega

end Sys2Proof.Machine
end

