-- ==== Sys2Proof/Laws/State.lean ====
section
/-!
SUPPORT. One lemma per field per update of State, all true by rfl.
-/

namespace Sys2Proof.Machine

@[simp] theorem State.withDec_dec (s : State) (d : DecState) : (s.withDec d).dec = d := rfl
@[simp] theorem State.withDec_enc (s : State) (d : DecState) : (s.withDec d).enc = s.enc := rfl
@[simp] theorem State.withDec_pinIn (s : State) (d : DecState) : (s.withDec d).pinIn = s.pinIn := rfl
@[simp] theorem State.withDec_refusalMark (s : State) (d : DecState) :
    (s.withDec d).refusalMark = s.refusalMark := rfl
@[simp] theorem State.withDec_received (s : State) (d : DecState) : (s.withDec d).received = s.received := rfl
@[simp] theorem State.withDec_script (s : State) (d : DecState) : (s.withDec d).script = s.script := rfl
@[simp] theorem State.withDec_withDec (s : State) (d d' : DecState) :
    (s.withDec d).withDec d' = s.withDec d' := rfl
@[simp] theorem State.withDec_self (s : State) : s.withDec s.dec = s := rfl

@[simp] theorem State.withEnc_dec (s : State) (u : EncState) : (s.withEnc u).dec = s.dec := rfl
@[simp] theorem State.withEnc_enc (s : State) (u : EncState) : (s.withEnc u).enc = u := rfl
@[simp] theorem State.withEnc_pinIn (s : State) (u : EncState) : (s.withEnc u).pinIn = s.pinIn := rfl
@[simp] theorem State.withEnc_refusalMark (s : State) (u : EncState) :
    (s.withEnc u).refusalMark = s.refusalMark := rfl
@[simp] theorem State.withEnc_received (s : State) (u : EncState) : (s.withEnc u).received = s.received := rfl
@[simp] theorem State.withEnc_script (s : State) (u : EncState) : (s.withEnc u).script = s.script := rfl
@[simp] theorem State.withEnc_withEnc (s : State) (u u' : EncState) :
    (s.withEnc u).withEnc u' = s.withEnc u' := rfl
@[simp] theorem State.withEnc_self (s : State) : s.withEnc s.enc = s := rfl

@[simp] theorem State.withPin_dec (s : State) (b : Bool) : (s.withPin b).dec = s.dec := rfl
@[simp] theorem State.withPin_enc (s : State) (b : Bool) : (s.withPin b).enc = s.enc := rfl
@[simp] theorem State.withPin_pinIn (s : State) (b : Bool) : (s.withPin b).pinIn = b := rfl
@[simp] theorem State.withPin_refusalMark (s : State) (b : Bool) :
    (s.withPin b).refusalMark = s.refusalMark := rfl
@[simp] theorem State.withPin_received (s : State) (b : Bool) : (s.withPin b).received = s.received := rfl
@[simp] theorem State.withPin_script (s : State) (b : Bool) : (s.withPin b).script = s.script := rfl

@[simp] theorem State.withScript_dec (s : State) (bs : List Byte) : (s.withScript bs).dec = s.dec := rfl
@[simp] theorem State.withScript_enc (s : State) (bs : List Byte) : (s.withScript bs).enc = s.enc := rfl
@[simp] theorem State.withScript_pinIn (s : State) (bs : List Byte) : (s.withScript bs).pinIn = s.pinIn := rfl
@[simp] theorem State.withScript_refusalMark (s : State) (bs : List Byte) :
    (s.withScript bs).refusalMark = s.refusalMark := rfl
@[simp] theorem State.withScript_received (s : State) (bs : List Byte) :
    (s.withScript bs).received = s.received := rfl
@[simp] theorem State.withScript_script (s : State) (bs : List Byte) : (s.withScript bs).script = bs := rfl

@[simp] theorem State.withScript_withScript (s : State) (bs bs' : List Byte) :
    (s.withScript bs).withScript bs' = s.withScript bs' := rfl

@[simp] theorem markRefused_dec (s : State) : (markRefused s).dec = s.dec := rfl
@[simp] theorem markRefused_enc (s : State) : (markRefused s).enc = s.enc := rfl
@[simp] theorem markRefused_pinIn (s : State) : (markRefused s).pinIn = s.pinIn := rfl
@[simp] theorem markRefused_refusalMark (s : State) : (markRefused s).refusalMark = true := rfl
@[simp] theorem markRefused_received (s : State) : (markRefused s).received = s.received := rfl
@[simp] theorem markRefused_script (s : State) : (markRefused s).script = s.script := rfl

end Sys2Proof.Machine
end

