-- ==== Sys2Proof/Laws/Selectors.lean ====
section
/-!
SUPPORT. Which case each selector word chooses (30_encoding.md R74 to R80), said once, so that no proof reads
a selector word again.
-/

namespace Sys2Proof.Machine

theorem decodeDsel_bits3 (a b c : Bool) :
    decodeDsel (bits3 a b c) =
      match a, b, c with
      | false, false, _ => .idleLow
      | true, true, _ => .idleHigh
      | false, true, true => .riseGap
      | false, true, false => .riseChan
      | true, false, false => .fallOk
      | true, false, true => .fallLong := by
  cases a <;> cases b <;> cases c <;> rfl

theorem decodeEsel_bits4 (h n f z : Bool) :
    decodeEsel (bits4 h n f z) =
      match h, n, f, z with
      | _, _, true, true => none
      | false, _, _, _ => some .wait
      | true, true, _, _ => some .rise
      | true, false, false, true => some .fallFirst
      | true, false, false, false => some .fallChan
      | true, false, true, false => some .fallPad := by
  cases h <;> cases n <;> cases f <;> cases z <;> rfl

theorem decSelect_low (p : Params) (d : DecState) (h : d.last = false) :
    decSelect p false d = .idleLow := by
  simp [decSelect, dselWord, decodeDsel_bits3, h]

theorem decSelect_high (p : Params) (d : DecState) (h : d.last = true) :
    decSelect p true d = .idleHigh := by
  simp [decSelect, dselWord, decodeDsel_bits3, h]

theorem decSelect_rise (p : Params) (d : DecState) (h : d.last = false) :
    decSelect p true d = if d.vars.e.toNat > p.maxGapC then .riseGap else .riseChan := by
  by_cases h2 : d.vars.e.toNat > p.maxGapC <;>
    simp [decSelect, dselWord, decodeDsel_bits3, thresholdBit, h, h2]

theorem decSelect_fall (p : Params) (d : DecState) (h : d.last = true) :
    decSelect p false d = if d.vars.e.toNat > p.maxPulseC then .fallLong else .fallOk := by
  by_cases h2 : d.vars.e.toNat > p.maxPulseC <;>
    simp [decSelect, dselWord, decodeDsel_bits3, thresholdBit, h, h2]

theorem encSelect_wait (u : EncState) (h : u.vars.e.toNat < u.deadline.toNat) :
    encSelect u = some .wait := by
  have h1 : ¬ u.deadline.toNat ≤ u.vars.e.toNat := by omega
  by_cases h2 : u.idx.toNat = 12
  · have h3 : ¬ u.idx.toNat = 0 := by omega
    simp [encSelect, eselWord, decodeEsel_bits4, deadlineHit, h1, h2]
  · by_cases h3 : u.idx.toNat = 0 <;>
      simp [encSelect, eselWord, decodeEsel_bits4, deadlineHit, h1, h2, h3]

theorem encSelect_rise (u : EncState) (h : u.deadline.toNat ≤ u.vars.e.toNat) (hl : u.level = false) :
    encSelect u = some .rise := by
  by_cases h2 : u.idx.toNat = 12
  · simp [encSelect, eselWord, decodeEsel_bits4, deadlineHit, h, hl, h2]
  · by_cases h3 : u.idx.toNat = 0 <;>
      simp [encSelect, eselWord, decodeEsel_bits4, deadlineHit, h, hl, h2, h3]

theorem encSelect_fall (u : EncState) (h : u.deadline.toNat ≤ u.vars.e.toNat) (hl : u.level = true) :
    encSelect u = some (if u.idx.toNat = 12 then .fallPad else if u.idx.toNat = 0 then .fallFirst else .fallChan) := by
  by_cases h2 : u.idx.toNat = 12
  · simp [encSelect, eselWord, decodeEsel_bits4, deadlineHit, h, hl, h2]
  · by_cases h3 : u.idx.toNat = 0 <;>
      simp [encSelect, eselWord, decodeEsel_bits4, deadlineHit, h, hl, h2, h3]

/-- No state forms an unreachable ESEL word (R77). -/
theorem encSelect_isSome (u : EncState) : (encSelect u).isSome = true := by
  rcases Nat.lt_or_ge u.vars.e.toNat u.deadline.toNat with h | h
  · rw [encSelect_wait u h]; rfl
  · cases hl : u.level
    · rw [encSelect_rise u h hl]; rfl
    · rw [encSelect_fall u h hl]; rfl

/-- BRIDGE_DEC by the pending signal (R182). -/
theorem bridgeDec_eq (p : Params) (d : DecState) :
    bridgeDec p d = if d.kick then decBridgeService p d else d := by
  cases h : d.kick <;> simp [bridgeDec, h, bselWord, unitBit, bits2, decodeBsel, decBridgeIdle]

/-- BRIDGE_ENC by the pending signal (R188, R189). -/
theorem bridgeEnc_eq (p : Params) (u : EncState) :
    bridgeEnc p u = if u.kick then encBridgeService p u else u := by
  cases h : u.kick <;> simp [bridgeEnc, h, bselWord, unitBit, bits2, decodeBsel, encBridgeIdle]

/-- Every drained decoder message is discarded (R78, R184). -/
theorem decMsg_eq (p : Params) (d : DecState) (m : Message) : decMsg p d m = { d with peer := m.src } := by
  cases h : accept p m <;> simp [decMsg, h, mselWord, unitBit, bits2, decodeMsel, decMsgDiscard]

/-- A drained encoder message is applied where it is accepted (R78, R189). -/
theorem encMsg_eq (p : Params) (u : EncState) (m : Message) :
    encMsg p u m = if accept p m then encMsgApply m u else u := by
  cases h : accept p m <;> simp [encMsg, h, mselWord, unitBit, bits2, decodeMsel, encMsgReject]

/-- The CSEL word names the operation the counter part performs (R80, R105). -/
theorem decodeCsel_cselWord (rst : Bool) :
    decodeCsel (cselWord rst) = some (if rst then .resetTick else .tick) := by
  cases rst <;> rfl

end Sys2Proof.Machine
end

