-- ==== Sys2Proof/Laws/Steps.lean ====
section
/-!
SUPPORT. Everything a shared operation, a unit's step and a step of the run can do, said once each.
-/

namespace Sys2Proof.Machine

/-! ## Results -/

theorem liftDec_next {s t : State} {r : Except Fault DecState} (h : liftDec s r = .next t) :
    ∃ d, r = .ok d ∧ t = s.withDec d := by
  cases r with
  | ok d => exact ⟨d, rfl, by simpa [liftDec] using h.symm⟩
  | error f => simp [liftDec] at h

theorem liftEnc_next {s t : State} {r : Except Fault EncState} (h : liftEnc s r = .next t) :
    ∃ u, r = .ok u ∧ t = s.withEnc u := by
  cases r with
  | ok u => exact ⟨u, rfl, by simpa [liftEnc] using h.symm⟩
  | error f => simp [liftEnc] at h

/-! ## Bridge -/

/-- Draining leaves the decoder with the source of the last message as its peer (R185). -/
theorem decMsgs_foldl (p : Params) (l : List Message) (d : DecState) :
    l.foldl (decMsg p) d = { d with peer := (l.getLast?.map Message.src).getD d.peer } := by
  induction l generalizing d with
  | nil => rfl
  | cons m l ih =>
    rw [List.foldl_cons, decMsg_eq, ih]
    cases l with
    | nil => rfl
    | cons m' l => simp [List.getLast?_cons]

/-- The frame after the messages of one service, in order (R189, R190, R191). -/
def drainedFrame (p : Params) (f : Frame) (l : List Message) : Frame :=
  l.foldl (fun g m => if accept p m then setImageBytes g 0 (appliedBytes m) else g) f

/-- Draining writes nothing of the encoder but its frame (R189). -/
theorem encMsgs_foldl (p : Params) (l : List Message) (u : EncState) :
    l.foldl (encMsg p) u = { u with frame := drainedFrame p u.frame l } := by
  induction l generalizing u with
  | nil => rfl
  | cons m l ih =>
    rw [List.foldl_cons, encMsg_eq, ih]
    cases h : accept p m <;> simp [drainedFrame, h, encMsgApply]

/-- What a decoder service leaves (R184 to R187). -/
theorem decBridgeService_eq (p : Params) (d : DecState) :
    decBridgeService p d =
      let peer := (d.inq.getLast?.map Message.src).getD d.peer
      { d with
        kick := false
        inq := []
        peer := peer
        outq := if d.outq.length < p.qOutCap
          then d.outq ++ [{ src := p.decPort, dst := peer, len := 24, data := pack d.frame }] else d.outq } := by
  rw [decBridgeService, decMsgs_foldl]
  by_cases h : d.outq.length < p.qOutCap <;> simp [pushReply, pushIfRoom, h, push, reply]

/-- What an encoder service leaves (R189). -/
theorem encBridgeService_eq (p : Params) (u : EncState) :
    encBridgeService p u = { u with kick := false, inq := [], frame := drainedFrame p u.frame u.inq } := by
  rw [encBridgeService, encMsgs_foldl]

/-! ## The decoder's step -/

/-- The wrapped index is a channel (R123). -/
theorem decWrap_idx_lt (d : DecState) : (decWrap d).idx.toNat < 12 := by
  unfold decWrap
  split
  · exact (by decide : (0#4).toNat < 12)
  · omega

theorem decEnter_idx_lt (d : DecState) : (decEnter d).idx.toNat < 12 := decWrap_idx_lt _

/-- The state in which a RUN step selects its case. -/
theorem decEnter_eq (d : DecState) :
    decEnter d = { d with
      idx := if 12 ≤ d.idx.toNat then 0#4 else d.idx
      vars := { e := d.cyc, rst := false } } := by
  unfold decEnter decWrap decCtrRead
  split <;> rfl

/-- With a channel at `dec.idx`, every case completes. -/
theorem decTake_ok (p : Params) (c : DecCase) (d : DecState) (h : d.idx.toNat < 12) :
    ∃ d', decTake p c d = .ok d' := by
  cases c <;> simp [decTake, decRiseChan, h]

/-- A RUN step of the decoder always completes. -/
theorem decRun_ok (p : Params) (cur : Bool) (delta : Cyc) (d : DecState) :
    ∃ d', decRun p cur delta d = .ok d' := by
  obtain ⟨d', h⟩ := decTake_ok p (decSelect p cur (decEnter d)) _ (decEnter_idx_lt d)
  exact ⟨_, by simp only [decRun, h]; rfl⟩

/-- Everything DEC_STEP can do (R121, R122). -/
theorem decStep_cases {p : Params} {delta : Cyc} {s t : State} (h : decStep p delta s = .next t) :
    (deltaOk p delta = false ∧ t = markRefused s) ∨
    (deltaOk p delta = true ∧ s.dec.mode = .init ∧
      t = s.withDec (decInit (decClearEvent s.dec))) ∨
    (deltaOk p delta = true ∧ s.dec.mode = .run ∧
      ∃ d', decTake p (decSelect p s.pinIn (decEnter (decClearEvent s.dec)))
          (decEnter (decClearEvent s.dec)) = .ok d' ∧
        t = s.withDec (decLeave p s.pinIn delta d')) := by
  unfold decStep at h
  split at h
  · rename_i hd
    obtain ⟨d, hr, rfl⟩ := liftDec_next h
    cases hm : s.dec.mode with
    | init =>
      simp only [decStepUnit, hm, Except.ok.injEq] at hr
      exact .inr (.inl ⟨hd, rfl, by rw [← hr]⟩)
    | run =>
      simp only [decStepUnit, hm, decRun] at hr
      split at hr
      · rename_i d' hk
        cases hr
        exact .inr (.inr ⟨hd, rfl, d', hk, rfl⟩)
      · cases hr
  · rename_i hd
    cases h
    exact .inl ⟨by simpa using hd, rfl⟩

/-- DEC_STEP never stops: no state keeps it from a next state. -/
theorem decStep_next (p : Params) (delta : Cyc) (s : State) : ∃ t, decStep p delta s = .next t := by
  unfold decStep
  split
  · cases hm : s.dec.mode with
    | init => simp [decStepUnit, hm, liftDec]
    | run =>
      obtain ⟨d', h⟩ := decRun_ok p s.pinIn delta (decClearEvent s.dec)
      simp [decStepUnit, hm, h, liftDec]
  · exact ⟨_, rfl⟩

/-! ## The encoder's step -/

/-- The state in which a RUN step selects its case. -/
theorem encEnter_eq (u : EncState) : encEnter u = { u with vars := { e := u.cyc, rst := false } } := rfl

/-- Everything ENC_STEP can do (R151, R152). -/
theorem encStep_cases {p : Params} {delta : Cyc} {s t : State} (h : encStep p delta s = .next t) :
    (deltaOk p delta = false ∧ t = markRefused s) ∨
    (deltaOk p delta = true ∧ s.enc.mode = .init ∧ t = s.withEnc (encInit s.enc)) ∨
    (deltaOk p delta = true ∧ s.enc.mode = .run ∧
      ∃ c u', encSelect (encEnter s.enc) = some c ∧ encTake p c (encEnter s.enc) = .ok u' ∧
        t = s.withEnc (encLeave p delta u')) := by
  unfold encStep at h
  split at h
  · rename_i hd
    split at h
    · rename_i hm
      cases h
      exact .inr (.inl ⟨hd, hm, rfl⟩)
    · rename_i hm
      split at h
      · rename_i c hc
        obtain ⟨u, hr, rfl⟩ := liftEnc_next h
        simp only [encRun] at hr
        split at hr
        · rename_i u' hk
          cases hr
          exact .inr (.inr ⟨hd, hm, c, u', hc, hk, rfl⟩)
        · cases hr
      · rename_i hc
        have := encSelect_isSome (encEnter s.enc)
        rw [hc] at this
        cases this
  · rename_i hd
    cases h
    exact .inl ⟨by simpa using hd, rfl⟩

/-- With an index in its legal range, every encoder case completes. -/
theorem encTake_ok (p : Params) (c : EncCase) (u : EncState) (hc : encSelect u = some c) (h : u.idx.toNat ≤ 12) :
    ∃ u', encTake p c u = .ok u' := by
  cases c with
  | fallChan =>
    by_cases h12 : u.idx.toNat = 12
    · exfalso
      rcases Nat.lt_or_ge u.vars.e.toNat u.deadline.toNat with hw | hw
      · simp [encSelect_wait u hw] at hc
      · cases hl : u.level
        · simp [encSelect_rise u hw hl] at hc
        · simp [encSelect_fall u hw hl, h12] at hc
    · have hi : u.idx.toNat < 12 := by omega
      simp [encTake, encFallChan, channel, hi]
  | wait => exact ⟨_, rfl⟩
  | rise => exact ⟨_, rfl⟩
  | fallFirst => exact ⟨_, rfl⟩
  | fallPad => exact ⟨_, rfl⟩

/-- ENC_STEP never stops in a state whose index is legal (R33). -/
theorem encStep_next (p : Params) (delta : Cyc) (s : State) (h : s.enc.idx.toNat ≤ 12) :
    ∃ t, encStep p delta s = .next t := by
  unfold encStep
  split
  · split
    · exact ⟨_, rfl⟩
    · split
      · rename_i c hc
        obtain ⟨u', hu⟩ := encTake_ok p c (encEnter s.enc) hc h
        simp [encRun, hu, liftEnc]
      · exact ⟨_, rfl⟩
  · exact ⟨_, rfl⟩

/-! ## A step of the run -/

/-- A record always holds an action of the ACT format (R70, R73). -/
theorem decode_format {bs rest : List Byte} {i : Instr} (h : decode bs = .ok (i, rest)) :
    i.format = .act := by
  unfold decode at h
  split at h
  · cases h
  · split at h
    · split at h
      · cases h
      · rename_i a _
        cases a <;> simp only [decodeOperands, decodeDelta, decodeLevel, decodeMessage] at h <;>
          (repeat' split at h) <;> cases h <;> rfl
    · cases h

/-- Everything a step can do: perform the action of the next record, or refuse bytes that are no record. -/
theorem step_cases {s t : State} (h : step s = .next t) :
    (∃ i rest, decode s.script = .ok (i, rest) ∧ exec i (s.withScript rest) = .next t) ∨
    (∃ r, decode s.script = .error r ∧ r ≠ .empty ∧ t = markRefused (s.withScript (r.rest s.script))) := by
  unfold step fetch at h
  cases hd : decode s.script with
  | ok x =>
    obtain ⟨i, rest⟩ := x
    rw [hd] at h
    exact .inl ⟨i, rest, rfl, h⟩
  | error r =>
    rw [hd] at h
    cases r with
    | empty => cases h
    | highBits b => cases h; exact .inr ⟨_, rfl, by simp, rfl⟩
    | reserved w => cases h; exact .inr ⟨_, rfl, by simp, rfl⟩
    | truncated a => cases h; exact .inr ⟨_, rfl, by simp, rfl⟩

end Sys2Proof.Machine
end

