-- ==== Sys2Proof/Laws/Observe.lean ====
section
/-!
SUPPORT. Observations of runs (00_scope.md R14): how they compose, and that the steps of the machine over records of
actions observe the same as the actions themselves.
-/

namespace Sys2Proof.Machine

@[simp] theorem observe_withScript (s : State) (bs : List Byte) : observe (s.withScript bs) = observe s := rfl

@[simp] theorem isMove_withScript (p : Params) (i : Instr) (s : State) (bs : List Byte) :
    isMove p i (s.withScript bs) = isMove p i s := rfl

@[simp] theorem observed_withScript (i : Instr) (s t : State) (bs bs' : List Byte) :
    observed i (s.withScript bs) (t.withScript bs') = observed i s t := rfl

/-- What is observed does not change at an action that is no move: refused or not enabled (R226, log 16). -/
theorem observe_eq_of_not_isMove (i : Instr) (s t : State) (ha : i.format = .act)
    (hm : isMove Config.params i s = false) (h : exec i s = .next t) : observe t = observe s := by
  cases i <;> simp only [Instr.format, reduceCtorEq] at ha <;>
    simp only [isMove, enabled, Instr.wf, Bool.and_true, Bool.true_and, reduceCtorEq] at hm
  case decStep delta =>
    change decStep _ _ _ = _ at h
    rw [decStep, hm] at h
    cases h
    rfl
  case encStep delta =>
    change encStep _ _ _ = _ at h
    rw [encStep, hm] at h
    cases h
    rfl
  case envSendDec m =>
    cases h
    simp only [envSendDec]
    split
    · split <;> rfl
    · rfl
  case envSendEnc m =>
    cases h
    simp only [envSendEnc]
    split
    · split <;> rfl
    · rfl
  case envRecvDec =>
    cases h
    have hq : s.dec.outq = [] := by simpa using hm
    simp only [envRecvDec, hq]
  case envPinDec level =>
    cases h
    simp only [envPinDec, hm]
    rfl

/-- The observation of a run, split after its first part. -/
theorem observeActs_append (xs ys : List Instr) (s t : State) (h : runActs xs s = .next t) :
    observeActs (xs ++ ys) s = observeActs xs s ++ observeActs ys t := by
  induction xs generalizing s with
  | nil =>
    cases h
    rfl
  | cons x xs ih =>
    simp only [runActs] at h
    simp only [List.cons_append, observeActs]
    cases hx : exec x s with
    | next u =>
      rw [hx] at h
      simp only [ih u h, List.append_assoc]
    | fault f =>
      rw [hx] at h
      cases h
    | refused r =>
      rw [hx] at h
      cases h

/-- The result with another script in its next state. -/
def Result.withScript (r : Result) (bs : List Byte) : Result :=
  match r with
  | .next t => .next (t.withScript bs)
  | .fault f => .fault f
  | .refused q => .refused q

theorem liftDec_withScript (s : State) (bs : List Byte) (r : Except Fault DecState) :
    liftDec (s.withScript bs) r = Result.withScript (liftDec s r) bs := by
  cases r <;> rfl

theorem liftEnc_withScript (s : State) (bs : List Byte) (r : Except Fault EncState) :
    liftEnc (s.withScript bs) r = Result.withScript (liftEnc s r) bs := by
  cases r <;> rfl

theorem decStep_withScript (p : Params) (delta : Cyc) (s : State) (bs : List Byte) :
    decStep p delta (s.withScript bs) = Result.withScript (decStep p delta s) bs := by
  unfold decStep
  split
  · exact liftDec_withScript _ _ _
  · rfl

theorem encStep_withScript (p : Params) (delta : Cyc) (s : State) (bs : List Byte) :
    encStep p delta (s.withScript bs) = Result.withScript (encStep p delta s) bs := by
  unfold encStep
  simp only [State.withScript_enc]
  split
  · split
    · rfl
    · split
      · exact liftEnc_withScript _ _ _
      · rfl
  · rfl

/-- No row reads or writes the script. -/
theorem exec_withScript (i : Instr) (s : State) (bs : List Byte) :
    exec i (s.withScript bs) = Result.withScript (exec i s) bs := by
  cases i with
  | decStep delta => exact decStep_withScript _ _ _ _
  | encStep delta => exact encStep_withScript _ _ _ _
  | decRiseChan => exact liftDec_withScript _ _ _
  | encFallChan => exact liftEnc_withScript _ _ _
  | envSendDec m =>
    simp only [exec, execEnvSendDec, envSendDec, State.withScript_dec]
    split
    · split <;> rfl
    · rfl
  | envSendEnc m =>
    simp only [exec, execEnvSendEnc, envSendEnc, State.withScript_enc]
    split
    · split <;> rfl
    · rfl
  | envRecvDec =>
    simp only [exec, execEnvRecvDec, envRecvDec, State.withScript_dec]
    split <;> rfl
  | envPinDec level =>
    simp only [exec, execEnvPinDec, envPinDec]
    split <;> rfl
  | ctrTick u delta => cases u <;> rfl
  | ctrRead u => cases u <;> rfl
  | ctrResetTick u delta => cases u <;> rfl
  | _ => rfl

/-- The bytes are the records of the actions, one after another. -/
def RecordsOf : List Instr → List Byte → Prop
  | [], bs => bs = []
  | i :: rest, bs => ∃ tail, decode bs = .ok (i, tail) ∧ RecordsOf rest tail

/-- Over records of actions, the machine's steps observe what the actions do (R14, log 3). -/
theorem observeSteps_of_records (acts : List Instr) (bs : List Byte) (s : State) (h : RecordsOf acts bs) :
    observeSteps acts.length (s.withScript bs) = observeActs acts s := by
  induction acts generalizing s bs with
  | nil => rfl
  | cons i rest ih =>
    obtain ⟨tail, hd, ht⟩ := h
    have hf : fetch (s.withScript bs) = .action i (s.withScript tail) := by
      simp only [fetch, State.withScript_script, hd, State.withScript_withScript]
    have hs : step (s.withScript bs) = Result.withScript (exec i s) tail := by
      simp only [step, hf, exec_withScript]
    simp only [List.length_cons, observeSteps, observeActs, hs, observedStep, hf]
    cases hx : exec i s with
    | next t =>
      simp only [Result.withScript, observed_withScript]
      rw [ih tail t ht]
    | fault f => rfl
    | refused r => rfl

end Sys2Proof.Machine
end

