-- ==== Sys2Proof/Laws/PerInstr.lean ====
section
/-!
SUPPORT. One lemma per constructor of Instr: the word of a row, read in the row's format with the instruction's
operands, is the instruction (30_encoding.md R71, R74 to R80).
-/

namespace Sys2Proof

/-- The operands an instruction carries beside its word; any value where it carries none. -/
def Instr.operands : Instr → Operands
  | .decStep delta => ⟨.dec, delta, 0#8, ⟨0#32, 0#32, 0, []⟩⟩
  | .encStep delta => ⟨.enc, delta, 0#8, ⟨0#32, 0#32, 0, []⟩⟩
  | .envSendDec m => ⟨.dec, 0#32, 0#8, m⟩
  | .envPinDec level => ⟨.dec, 0#32, level, ⟨0#32, 0#32, 0, []⟩⟩
  | .envSendEnc m => ⟨.enc, 0#32, 0#8, m⟩
  | .decMsgDiscard m => ⟨.dec, 0#32, 0#8, m⟩
  | .encMsgApply m => ⟨.enc, 0#32, 0#8, m⟩
  | .encMsgReject m => ⟨.enc, 0#32, 0#8, m⟩
  | .ctrTick u delta => ⟨u, delta, 0#8, ⟨0#32, 0#32, 0, []⟩⟩
  | .ctrRead u => ⟨u, 0#32, 0#8, ⟨0#32, 0#32, 0, []⟩⟩
  | .ctrResetTick u delta => ⟨u, delta, 0#8, ⟨0#32, 0#32, 0, []⟩⟩
  | _ => ⟨.dec, 0#32, 0#8, ⟨0#32, 0#32, 0, []⟩⟩

namespace Laws.RowDecodes

/-- The row's word decodes to the instruction in the row's format. -/
def Statement (i : Instr) : Prop := decodeIn i.format i.word i.operands = some i

theorem decStep (delta : Cyc) : Statement (.decStep delta) := by
  simp [Statement, decodeIn, Instr.format, Instr.word, Instr.operands, decodeAct, Act.instr]
theorem encStep (delta : Cyc) : Statement (.encStep delta) := by
  simp [Statement, decodeIn, Instr.format, Instr.word, Instr.operands, decodeAct, Act.instr]
theorem envResetDec : Statement (.envResetDec) := rfl
theorem envReadyDec : Statement (.envReadyDec) := rfl
theorem envSendDec (m : Message) : Statement (.envSendDec m) := by
  simp [Statement, decodeIn, Instr.format, Instr.word, Instr.operands, decodeAct, Act.instr]
theorem envKickDec : Statement (.envKickDec) := rfl
theorem envRecvDec : Statement (.envRecvDec) := rfl
theorem envPinDec (level : Byte) : Statement (.envPinDec level) := by
  simp [Statement, decodeIn, Instr.format, Instr.word, Instr.operands, decodeAct, Act.instr]
theorem envResetEnc : Statement (.envResetEnc) := rfl
theorem envReadyEnc : Statement (.envReadyEnc) := rfl
theorem envSendEnc (m : Message) : Statement (.envSendEnc m) := by
  simp [Statement, decodeIn, Instr.format, Instr.word, Instr.operands, decodeAct, Act.instr]
theorem envKickEnc : Statement (.envKickEnc) := rfl
theorem decIdleLow : Statement (.decIdleLow) := rfl
theorem decIdleHigh : Statement (.decIdleHigh) := rfl
theorem decRiseGap : Statement (.decRiseGap) := rfl
theorem decRiseChan : Statement (.decRiseChan) := rfl
theorem decFallOk : Statement (.decFallOk) := rfl
theorem decFallLong : Statement (.decFallLong) := rfl
theorem encWait : Statement (.encWait) := rfl
theorem encRise : Statement (.encRise) := rfl
theorem encFallFirst : Statement (.encFallFirst) := rfl
theorem encFallChan : Statement (.encFallChan) := rfl
theorem encFallPad : Statement (.encFallPad) := rfl
theorem decBridgeIdle : Statement (.decBridgeIdle) := rfl
theorem decBridgeService : Statement (.decBridgeService) := rfl
theorem encBridgeIdle : Statement (.encBridgeIdle) := rfl
theorem encBridgeService : Statement (.encBridgeService) := rfl
theorem decMsgDiscard (m : Message) : Statement (.decMsgDiscard m) := by
  simp [Statement, decodeIn, Instr.format, Instr.word, Instr.operands, decodeMsel, MsgCase.instr]
theorem encMsgApply (m : Message) : Statement (.encMsgApply m) := by
  simp [Statement, decodeIn, Instr.format, Instr.word, Instr.operands, decodeMsel, MsgCase.instr]
theorem encMsgReject (m : Message) : Statement (.encMsgReject m) := by
  simp [Statement, decodeIn, Instr.format, Instr.word, Instr.operands, decodeMsel, MsgCase.instr]
theorem ctrTick (u : UnitId) (delta : Cyc) : Statement (.ctrTick u delta) := by
  simp [Statement, decodeIn, Instr.format, Instr.word, Instr.operands, decodeCsel, CtrCase.instr]
theorem ctrRead (u : UnitId) : Statement (.ctrRead u) := by
  simp [Statement, decodeIn, Instr.format, Instr.word, Instr.operands, decodeCsel, CtrCase.instr]
theorem ctrResetTick (u : UnitId) (delta : Cyc) : Statement (.ctrResetTick u delta) := by
  simp [Statement, decodeIn, Instr.format, Instr.word, Instr.operands, decodeCsel, CtrCase.instr]

end Laws.RowDecodes

end Sys2Proof
end

