-- ==== Sys2Proof/Machine/ScriptText.lean ====
section
/-!
DEFINITION. The script text of 30_encoding.md R90: one action a line, numbers decimal or hexadecimal with the
prefix 0x, and a comment after a semicolon. The text only names actions; records (R73) are what runs (log 14).
-/

namespace Sys2Proof.Machine

/-- The line without its comment. -/
def dropComment : List Char → List Char
  | [] => []
  | c :: cs => if c = ';' then [] else c :: dropComment cs

/-- The words of a line: blanks part them, and each bracket is a word of its own. `cur` is the word being
read, last character first. -/
def wordsFrom (cur : List Char) : List Char → List (List Char)
  | [] => if cur = [] then [] else [cur.reverse]
  | c :: cs =>
    if c = ' ' then (if cur = [] then [] else [cur.reverse]) ++ wordsFrom [] cs
    else if c = '[' ∨ c = ']' then (if cur = [] then [] else [cur.reverse]) ++ [c] :: wordsFrom [] cs
    else wordsFrom (c :: cur) cs

/-- The value of a digit of the given base. -/
def digitValue (base : Nat) (c : Char) : Option Nat :=
  let n := c.toNat
  let v := if 48 ≤ n ∧ n ≤ 57 then n - 48 else if 65 ≤ n ∧ n ≤ 70 then n - 55
    else if 97 ≤ n ∧ n ≤ 102 then n - 87 else 16
  if v < base then some v else none

/-- Digits read on from the value `acc`. -/
def digitsFrom (base acc : Nat) : List Char → Option Nat
  | [] => some acc
  | c :: cs =>
    match digitValue base c with
    | some v => digitsFrom base (acc * base + v) cs
    | none => none

/-- A number: decimal, or hexadecimal with the prefix 0x (R90). -/
def parseNumber : List Char → Option Nat
  | [] => none
  | ['0', 'x'] => none
  | '0' :: 'x' :: ds => digitsFrom 16 0 ds
  | ds => digitsFrom 10 0 ds

/-- A number below a bound. -/
def parseBelow (bound : Nat) (w : List Char) : Option Nat :=
  match parseNumber w with
  | some n => if n < bound then some n else none
  | none => none

/-- The bytes of a message up to the closing bracket, which ends the line. -/
def parseBytes : List (List Char) → Option (List Byte)
  | [] => none
  | [[']']] => some []
  | w :: ws =>
    match parseBelow 256 w, parseBytes ws with
    | some n, some bs => some (BitVec.ofNat 8 n :: bs)
    | _, _ => none

/-- Δ of a step, 1 where it is left out (R90). -/
def parseDelta : List (List Char) → Option Cyc
  | [] => some 1#32
  | [w] => (parseBelow 4294967296 w).map (BitVec.ofNat 32)
  | _ => none

/-- `<src> <dst> [b0 b1 ...]`, with len the number of bytes (R90). -/
def parseMessage : List (List Char) → Option Message
  | src :: dst :: ['['] :: ws =>
    match parseBelow 4294967296 src, parseBelow 4294967296 dst, parseBytes ws with
    | some a, some b, some bs =>
      some { src := BitVec.ofNat 32 a, dst := BitVec.ofNat 32 b, len := bs.length, data := bs }
    | _, _, _ => none
  | _ => none

/-- The word naming a unit. -/
def parseUnit (w : List Char) : Option UnitId :=
  if w = "dec".toList then some .dec else if w = "enc".toList then some .enc else none

/-- A `host.` line for a unit, after its two first words (R90). There is no `host.recv enc` (R85). -/
def parseHost (verb : List Char) (u : UnitId) (ws : List (List Char)) : Option Instr :=
  match u with
  | .dec =>
    if verb = "host.send".toList then (parseMessage ws).map .envSendDec
    else if ws ≠ [] then none
    else if verb = "host.reset".toList then some .envResetDec
    else if verb = "host.ready".toList then some .envReadyDec
    else if verb = "host.kick".toList then some .envKickDec
    else if verb = "host.recv".toList then some .envRecvDec
    else none
  | .enc =>
    if verb = "host.send".toList then (parseMessage ws).map .envSendEnc
    else if ws ≠ [] then none
    else if verb = "host.reset".toList then some .envResetEnc
    else if verb = "host.ready".toList then some .envReadyEnc
    else if verb = "host.kick".toList then some .envKickEnc
    else none

/-- The words of a line as an action (R90); none for words that are no line of R90's table. -/
def parseWords : List (List Char) → Option Instr
  | [] => none
  | verb :: ws =>
    if verb = "dec.step".toList then (parseDelta ws).map .decStep
    else if verb = "enc.step".toList then (parseDelta ws).map .encStep
    else
      match ws with
      | [] => none
      | w :: rest =>
        match parseUnit w with
        | none => none
        | some u =>
          if verb = "env.pin".toList then
            match u, rest with
            | .dec, [l] => (parseBelow 2 l).map fun n => .envPinDec (BitVec.ofNat 8 n)
            | _, _ => none
          else parseHost verb u rest

/-- A line of a script: the action it names, or no action for a blank line; none if it is no line of R90. -/
def parseLine (line : List Char) : Option (Option Instr) :=
  match wordsFrom [] (dropComment line) with
  | [] => some none
  | ws => (parseWords ws).map some

end Sys2Proof.Machine
end

