-- ==== Sys2Proof/Tests/Slice0.lean ====
section
/-!
SUPPORT. The model's own tests: refusals of ill-formed operands, the words of 30_encoding.md written out, vectors of
95_test_vectors.md section 2 (named V<n>, at the parameters of its section 0), and one witness for each statement
that has hypotheses.
-/

namespace Sys2Proof.Tests

open Machine Safety

/-- The vector parameters of 95_test_vectors.md section 0. -/
def pv : Params where
  cpu := 1
  latMax := 1
  qInCap := 4
  qOutCap := 4
  msgMax := 496
  decPort := 30#32
  encPort := 31#32
  lenPolicy := .reject

/-- The vector parameters with a longer latency. -/
def pvLat : Params := { pv with latMax := 400 }

/-- The vector parameters with LEN_POLICY = PARTIAL. -/
def pvPartial : Params := { pv with lenPolicy := .partialCopy }

/-- The encoded byte [00] from `src` to the decoder. -/
def poke (src : Endpoint) : Message := { src := src, dst := 30#32, len := 1, data := [0#8] }

/-- A frame with one value in every channel. -/
def frameOf (v : Chan) : Frame := Vector.replicate 12 v

/-- A message of the host to the encoder. -/
def toEnc (data : List Byte) : Message := { src := 1#32, dst := 31#32, len := data.length, data := data }

/-- A running decoder. -/
def decAt (last : Bool) (e : Cyc) (idx : BitVec 4) : DecState :=
  { DecState.reset with mode := .run, ready := true, last := last, cyc := e, idx := idx }

/-- A running encoder. -/
def encAt (level : Bool) (idx : BitVec 4) (acc deadline e : Cyc) (v : Chan) : EncState :=
  { EncState.reset with
    mode := .run
    ready := true
    level := level
    idx := idx
    acc := acc
    deadline := deadline
    cyc := e
    frame := frameOf v }

/-- A whole state. -/
def stateOf (d : DecState) (u : EncState) (script : List Byte) : State where
  dec := d
  enc := u
  pinIn := false
  refusalMark := false
  received := []
  script := script

/-- One decoder step with Δ = 1 at the vector parameters. -/
def decOnce (cur : Bool) (d : DecState) : Option DecState := (decStepUnit pv cur 1#32 d).toOption

/-- What an encoder step with Δ = 1 leaves in the encoder. -/
def encOnce (p : Params) (u : EncState) : Option EncState :=
  match encStep p 1#32 (stateOf DecState.reset u []) with
  | .next t => some t.enc
  | .fault _ => none
  | .refused _ => none

/-- The level, sum, deadline and index of an encoder. -/
def timing (u : EncState) : Bool × Cyc × Cyc × BitVec 4 := (u.level, u.acc, u.deadline, u.idx)

/-! ## Well-formedness: each check refuses an ill-formed term -/

/-- R72, V58. -/
theorem test_wf_refuses_zero_delta :
    (Instr.decStep 0#32).wf pv = false ∧ (Instr.encStep 0#32).wf pv = false := by decide

/-- R72, V58a. -/
theorem test_wf_refuses_long_delta :
    (Instr.decStep 2#32).wf pv = false ∧ (Instr.encStep 2#32).wf pv = false ∧ (Instr.ctrTick .dec 2#32).wf pv = false ∧
      (Instr.ctrResetTick .enc 0#32).wf pv = false := by decide

/-- R72, V59. -/
theorem test_wf_refuses_level_two :
    (Instr.envPinDec 2#8).wf pv = false ∧ (Instr.envPinDec 1#8).wf pv = true := by decide

/-- R72, V59a. -/
theorem test_wf_refuses_long_message :
    (Instr.envSendDec { poke 1#32 with len := 497, data := List.replicate 497 0#8 }).wf pv = false := by decide +kernel

/-- R72: len = |data|. -/
theorem test_wf_refuses_wrong_length :
    (Instr.envSendDec { poke 1#32 with len := 2 }).wf pv = false ∧
      (Instr.envSendEnc { poke 1#32 with len := 0 }).wf pv = false ∧ (Instr.decMsgDiscard { poke 1#32 with len := 2 }).wf pv = false := by decide

/-- R78, R192. -/
theorem test_wf_refuses_apply_of_unaccepted :
    (Instr.encMsgApply (poke 1#32)).wf pv = false ∧ (Instr.encMsgReject (poke 1#32)).wf pv = true ∧
      (Instr.encMsgReject (poke 1#32)).wf pvPartial = false := by decide

/-! ## Decoding: a word or record of every constructor, written out from 30_encoding.md -/

theorem test_decode_decStep :
    decode [0b00000000#8, 0x01#8, 0x02#8, 0x03#8, 0x04#8] =
      .ok (.decStep 0x04030201#32, []) := by decide

theorem test_decode_encStep :
    decode [0b00001000#8, 0x01#8, 0x00#8, 0x00#8, 0x80#8] =
      .ok (.encStep 0x80000001#32, []) := by decide

theorem test_decode_envResetDec :
    decode [0b00010000#8] =
      .ok (.envResetDec, []) := by decide

theorem test_decode_envReadyDec :
    decode [0b00010001#8] =
      .ok (.envReadyDec, []) := by decide

theorem test_decode_envSendDec :
    decode [0b00010010#8, 0x01#8, 0x02#8, 0x03#8, 0x04#8, 0x1E#8, 0#8, 0#8, 0#8, 0x02#8, 0x00#8, 0xAA#8, 0xBB#8] =
      .ok (.envSendDec { src := 0x04030201#32, dst := 30#32, len := 2, data := [0xAA#8, 0xBB#8] }, []) := by decide

theorem test_decode_envKickDec :
    decode [0b00010011#8] =
      .ok (.envKickDec, []) := by decide

theorem test_decode_envRecvDec :
    decode [0b00010100#8] =
      .ok (.envRecvDec, []) := by decide

theorem test_decode_envPinDec :
    decode [0b00010101#8, 0x01#8] =
      .ok (.envPinDec 1#8, []) := by decide

theorem test_decode_envResetEnc :
    decode [0b00011000#8] =
      .ok (.envResetEnc, []) := by decide

theorem test_decode_envReadyEnc :
    decode [0b00011001#8] =
      .ok (.envReadyEnc, []) := by decide

theorem test_decode_envSendEnc :
    decode [0b00011010#8, 0x01#8, 0#8, 0#8, 0#8, 0x1F#8, 0#8, 0#8, 0x80#8, 0x00#8, 0x00#8] =
      .ok (.envSendEnc { src := 1#32, dst := 0x8000001F#32, len := 0, data := [] }, []) := by decide

theorem test_decode_envKickEnc :
    decode [0b00011011#8] =
      .ok (.envKickEnc, []) := by decide

theorem test_decode_decIdleLow :
    decodeDsel 0b000#3 = .idleLow ∧ decodeDsel 0b001#3 = .idleLow := by decide

theorem test_decode_decIdleHigh :
    decodeDsel 0b110#3 = .idleHigh ∧ decodeDsel 0b111#3 = .idleHigh := by decide

theorem test_decode_decRiseGap :
    decodeDsel 0b011#3 = .riseGap := by decide

theorem test_decode_decRiseChan :
    decodeDsel 0b010#3 = .riseChan := by decide

theorem test_decode_decFallOk :
    decodeDsel 0b100#3 = .fallOk := by decide

theorem test_decode_decFallLong :
    decodeDsel 0b101#3 = .fallLong := by decide

theorem test_decode_encWait :
    decodeEsel 0b0000#4 = some .wait ∧ decodeEsel 0b0110#4 = some .wait := by decide

theorem test_decode_encRise :
    decodeEsel 0b1100#4 = some .rise ∧ decodeEsel 0b1110#4 = some .rise := by decide

theorem test_decode_encFallFirst :
    decodeEsel 0b1001#4 = some .fallFirst := by decide

theorem test_decode_encFallChan :
    decodeEsel 0b1000#4 = some .fallChan := by decide

theorem test_decode_encFallPad :
    decodeEsel 0b1010#4 = some .fallPad := by decide

theorem test_decode_decBridgeIdle :
    decodeBsel 0b00#2 = .decIdle := by decide

theorem test_decode_decBridgeService :
    decodeBsel 0b01#2 = .decService := by decide

theorem test_decode_encBridgeIdle :
    decodeBsel 0b10#2 = .encIdle := by decide

theorem test_decode_encBridgeService :
    decodeBsel 0b11#2 = .encService := by decide

theorem test_decode_decMsgDiscard :
    decodeMsel 0b00#2 = .decDiscard ∧ decodeMsel 0b01#2 = .decDiscard := by decide

theorem test_decode_encMsgApply :
    decodeMsel 0b11#2 = .encApply := by decide

theorem test_decode_encMsgReject :
    decodeMsel 0b10#2 = .encReject := by decide

theorem test_decode_ctrTick :
    decodeCsel 0b00#2 = some .tick := by decide

theorem test_decode_ctrRead :
    decodeCsel 0b01#2 = some .read := by decide

theorem test_decode_ctrResetTick :
    decodeCsel 0b10#2 = some .resetTick := by decide

/-- V56 to V56c; R77, R85. -/
theorem test_decode_reserved_words :
    decode [0x01#8] = .error (.reserved 0b00001#5) ∧ decode [0x09#8] = .error (.reserved 0b01001#5) ∧
      decode [0x17#8] = .error (.reserved 0b10111#5) ∧ decode [0x1F#8] = .error (.reserved 0b11111#5) ∧
      decodeCsel 0b11#2 = none ∧ decodeEsel 0b1011#4 = none := by decide

/-- V57. -/
theorem test_decode_high_bits :
    decode [0x20#8, 0#8] = .error (.highBits 0x20#8) ∧ decode [0x80#8] = .error (.highBits 0x80#8) := by decide

/-- R73. -/
theorem test_decode_truncated :
    decode [0x00#8, 1#8] = .error (.truncated .decStep) ∧ decode [0x15#8] = .error (.truncated .envPinDec) ∧
      decode [] = .error .empty := by decide

/-- R73, 95_test_vectors.md section 3. -/
theorem test_encode_send :
    encode (.envSendDec { src := 1024#32, dst := 30#32, len := 1, data := [0#8] }) =
      some [0x12#8, 0x00#8, 0x04#8, 0x00#8, 0x00#8, 0x1E#8, 0x00#8, 0x00#8, 0x00#8, 0x01#8, 0x00#8, 0x00#8] := by decide

/-- Table words are action words, with operand bytes of zeros (log 4). -/
theorem test_decodeTableWord :
    decodeTableWord 5 0x08 = some (.encStep 0#32) ∧ decodeTableWord 8 0x1B = some .envKickEnc ∧
      decodeTableWord 8 0x16 = none := by decide

/-! ## Cycle counter (95_test_vectors.md section 2.1) -/

theorem test_ctrRead_V1 :
    (decCtrRead (decAt false 500#32 0#4)).vars.e = 500#32 ∧ (decCtrRead (decAt false 500#32 0#4)).cyc = 500#32 := by decide

theorem test_ctrTick_V2 :
    (decCtrTick 1#32 (decAt false 500#32 0#4)).cyc = 501#32 := by decide

theorem test_ctrTick_V4_saturates :
    (encCtrTick 5#32 (encAt false 0#4 0#32 0#32 4294967294#32 0#16)).cyc = 4294967295#32 := by decide

theorem test_ctrResetTick_V7 :
    (encCtrResetTick 4#32 (encAt false 0#4 0#32 0#32 1234#32 0#16)).cyc = 4#32 := by decide

/-! ## Decoder step (section 2.2) -/

theorem test_decRiseGap_V9 :
    (decOnce true (decAt false 5000#32 7#4)).map (fun d => (d.idx, d.frame == DecState.reset.frame, d.last, d.cyc)) =
      some (0#4, true, true, 1#32) := by decide

theorem test_decRiseGap_V10 :
    (decOnce true (decAt false 1721#32 4#4)).map (fun d => (d.idx, d.last, d.cyc)) =
      some (0#4, true, 1#32) := by decide

theorem test_decRiseChan_V12 :
    (decOnce true (decAt false 1720#32 2#4)).map (fun d => (channel d.frame 2, d.idx, d.cyc)) =
      some (some 2000#16, 3#4, 1#32) := by decide

theorem test_decRiseChan_V25 :
    (decOnce true (decAt false 1200#32 11#4)).map (fun d => (channel d.frame 11, d.idx)) =
      some (some 1500#16, 12#4) := by decide

theorem test_decFallOk_V18 :
    (decOnce false (decAt true 320#32 4#4)).map (fun d => (d.last, d.malformed, d.cyc)) =
      some (false, false, 1#32) := by decide

theorem test_decFallLong_V19 :
    (decOnce false (decAt true 321#32 4#4)).map (fun d => (d.last, d.malformed, d.idx, d.frame == DecState.reset.frame, d.cyc)) =
      some (false, true, 4#4, true, 1#32) := by decide

theorem test_decIdleLow_V21 :
    (decOnce false (decAt false 500#32 4#4)).map (fun d => (d.cyc, d.idx)) =
      some (501#32, 4#4) := by decide

theorem test_decIdleHigh_V24_wraps :
    (decOnce true (decAt true 50#32 12#4)).map (fun d => (d.idx, d.cyc)) =
      some (0#4, 51#32) := by decide

theorem test_decStep_V27_exits_init :
    (decOnce true { DecState.reset with ready := true }).map (fun d => (d.mode, d.cyc, d.last)) =
      some (.run, 0#32, false) := by decide

theorem test_decStep_V45a_reply_packs_stored_value :
    (decOnce true { decAt false 1200#32 0#4 with kick := true }).map (fun d => d.outq.map (fun m => (m.dst, m.data.take 4))) =
      some [(0#32, [0xDC#8, 0x05#8, 0xE8#8, 0x03#8])] := by decide

/-! ## Encoder step (section 2.3) -/

theorem test_encWait_V33 :
    (encOnce pv (encAt true 0#4 0#32 300#32 150#32 1000#16)).map (fun u => (timing u, u.cyc)) =
      some ((true, 0#32, 300#32, 0#4), 151#32) := by decide

theorem test_encRise_V35_overshoot :
    (encOnce pvLat (encAt false 2#4 1300#32 700#32 703#32 0#16)).map timing =
      some (true, 2003#32, 297#32, 2#4) := by decide

theorem test_encRise_V40e_saturated :
    (encOnce pv (encAt false 3#4 0#32 1200#32 4294967295#32 0#16)).map (fun u => (u.level, u.deadline)) =
      some (true, 0#32) := by decide

theorem test_encFallFirst_V38_seed :
    (encOnce pv (encAt true 0#4 22500#32 300#32 300#32 1000#16)).map timing =
      some (false, 300#32, 700#32, 1#4) := by decide

theorem test_encFallChan_V32_clamps :
    (encOnce pv (encAt true 1#4 1000#32 300#32 300#32 65535#16)).map (fun u => (timing u, u.cyc)) =
      some ((false, 1300#32, 1700#32, 2#4), 1#32) := by decide

theorem test_encFallChan_V40_last :
    (encOnce pv (encAt true 11#4 16500#32 300#32 300#32 1500#16)).map timing =
      some (false, 16800#32, 1200#32, 12#4) := by decide

theorem test_encFallPad_V40b_saturates :
    (encOnce pv (encAt true 12#4 24000#32 300#32 300#32 1500#16)).map timing =
      some (false, 24300#32, 0#32, 0#4) := by decide

theorem test_encFallPad_V40c_overshoot :
    (encOnce pvLat (encAt true 12#4 18000#32 300#32 302#32 1500#16)).map timing =
      some (false, 18302#32, 4196#32, 0#4) := by decide

theorem test_encStep_V49c_uses_old_frame :
    (encOnce pv { encAt true 0#4 0#32 300#32 300#32 1000#16 with kick := true, inq := [toEnc (pack (frameOf 2000#16))] }).map
      (fun u => (u.deadline, u.frame == frameOf 2000#16, u.kick)) = some (700#32, true, false) := by decide +kernel

/-! ## Bridge (section 2.4) -/

theorem test_decBridgeService_V41 :
    (fun d : DecState => (d.inq, d.peer, d.kick, d.outq))
        (decBridgeService pv { decAt false 0#32 0#4 with kick := true, inq := [poke 5#32, poke 6#32, poke 7#32] }) =
      ([], 7#32, false, [{ src := 30#32, dst := 7#32, len := 24, data := (List.replicate 12 [0xE8#8, 0x03#8]).flatten }]) := by decide +kernel

theorem test_decBridgeService_V44_drops :
    (fun d : DecState => (d.inq, d.peer, d.outq.length))
        (decBridgeService pv { decAt false 0#32 0#4 with kick := true, inq := [poke 9#32], outq := List.replicate 4 (poke 1#32) }) =
      ([], 9#32, 4) := by decide

theorem test_decBridgeIdle_V45 :
    (bridgeDec pv { decAt false 0#32 0#4 with inq := [poke 1#32, poke 2#32] }).inq = [poke 1#32, poke 2#32] := by decide

theorem test_encBridgeService_V49 :
    (encBridgeService pv { encAt false 0#4 0#32 0#32 0#32 1000#16 with
        inq := [toEnc (pack (frameOf 1900#16)), toEnc [0xE8#8, 0x03#8, 0xFF#8]] }).frame = frameOf 1900#16 := by decide +kernel

theorem test_encMsgApply_V47_partial :
    (fun u : EncState => (channel u.frame 0, channel u.frame 1, channel u.frame 2))
        (encMsgApply (toEnc [0xE8#8, 0x03#8, 0xFF#8]) (encAt false 0#4 0#32 0#32 0#32 1900#16)) =
      (some 1000#16, some 2047#16, some 1900#16) := by decide

theorem test_encMsgApply_V49a_ignores_byte_24 :
    (encMsgApply (toEnc (pack (frameOf 1234#16) ++ [0xFF#8])) (encAt false 0#4 0#32 0#32 0#32 1900#16)).frame = frameOf 1234#16 := by decide +kernel

/-- V47: under PARTIAL the short message overwrites the bytes it covers. -/
theorem test_encBridgeService_V47_partial :
    (fun u : EncState => (channel u.frame 0, channel u.frame 1, channel u.frame 2, channel u.frame 11))
        (encBridgeService pvPartial { encAt false 0#4 0#32 0#32 0#32 1000#16 with
          inq := [toEnc (pack (frameOf 1900#16)), toEnc [0xE8#8, 0x03#8, 0xFF#8]] }) =
      (some 1000#16, some 2047#16, some 1900#16, some 1900#16) := by decide +kernel

theorem test_encMsgReject_V46 :
    encMsg pv (encAt false 0#4 0#32 0#32 0#32 1900#16) (toEnc [0#8]) = encAt false 0#4 0#32 0#32 0#32 1900#16 := by decide

/-- R188. -/
theorem test_encBridgeIdle :
    bridgeEnc pv { encAt false 0#4 0#32 0#32 0#32 1900#16 with inq := [toEnc [0#8]] } =
      { encAt false 0#4 0#32 0#32 0#32 1900#16 with inq := [toEnc [0#8]] } := by decide

/-- R185. -/
theorem test_decMsgDiscard :
    (decMsgDiscard { poke 77#32 with len := 9 } (decAt false 0#32 0#4)).peer = 77#32 := by decide

theorem test_envSendDec_V49e_full :
    (envSendDec pv (poke 2#32) (stateOf { DecState.reset with inq := List.replicate 4 (poke 1#32) } EncState.reset [])) =
      stateOf { DecState.reset with inq := List.replicate 4 (poke 1#32) } EncState.reset [] := by decide

/-- R193. -/
theorem test_envSendDec_appends :
    (envSendDec pv (poke 2#32) (stateOf { DecState.reset with inq := [poke 1#32] } EncState.reset [])).dec.inq = [poke 1#32, poke 2#32] := by decide

/-- R194. -/
theorem test_envSendEnc_appends :
    (envSendEnc pv (poke 2#32) (stateOf DecState.reset { EncState.reset with inq := [poke 1#32] } [])).enc.inq = [poke 1#32, poke 2#32] := by decide

/-- R72, R86. -/
theorem test_envSendEnc_refuses :
    (envSendEnc pv { poke 2#32 with len := 5 } (stateOf DecState.reset EncState.reset [])).refusalMark = true := by decide

/-- R197. -/
theorem test_envRecvDec_oldest :
    (fun s : State => (s.dec.outq, s.received))
        (envRecvDec (stateOf { DecState.reset with outq := [poke 1#32, poke 2#32] } EncState.reset [])) = ([poke 2#32], [poke 1#32]) := by decide

theorem test_envRecvDec_V49f_empty :
    envRecvDec (stateOf DecState.reset EncState.reset []) = stateOf DecState.reset EncState.reset [] := by decide

/-- R195, R196. -/
theorem test_envKick :
    (envKickDec (stateOf DecState.reset EncState.reset [])).dec.kick = true ∧ (envKickEnc (stateOf DecState.reset EncState.reset [])).enc.kick = true := by decide

/-! ## Reset, readiness, pin (section 2.5), and steps of a run (sections 2.6 and 3) -/

theorem test_envResetDec_V50 :
    (fun s : State => (s.dec, s.pinIn))
        (envResetDec ((stateOf { decAt true 77#32 5#4 with outq := [poke 1#32] } EncState.reset []).withPin true)) = (DecState.reset, true) := by decide

theorem test_envResetEnc_V52 :
    (fun s : State => (ppmOut s, s.enc))
        (envResetEnc (stateOf DecState.reset (encAt true 4#4 900#32 300#32 10#32 1500#16) [])) = (false, EncState.reset) := by decide

theorem test_envResetEnc_V54 :
    (envResetEnc (stateOf (decAt true 77#32 5#4) EncState.reset [])).dec = decAt true 77#32 5#4 := by decide

/-- R233, R234. -/
theorem test_envReady :
    (envReadyDec (stateOf DecState.reset EncState.reset [])).dec.ready = true ∧ (envReadyEnc (stateOf DecState.reset EncState.reset [])).enc.ready = true := by decide

theorem test_envPinDec_V59_refused :
    (fun s : State => (s.pinIn, s.refusalMark)) (envPinDec 2#8 (stateOf DecState.reset EncState.reset [])) = (false, true) := by decide

/-- R136. -/
theorem test_envPinDec_high :
    (envPinDec 1#8 (stateOf DecState.reset EncState.reset [])).pinIn = true := by decide

/-- R73, R233 (log 3). -/
theorem test_step_takes_one_record :
    step (stateOf DecState.reset EncState.reset [0x11#8, 0x13#8]) =
      .next (stateOf { DecState.reset with ready := true } EncState.reset [0x13#8]) := rfl

/-- P5: the run goes on after a reserved word (log 6). -/
theorem test_step_refuses_and_goes_on :
    step (stateOf DecState.reset EncState.reset [0x16#8, 0x11#8]) =
      .next { stateOf DecState.reset EncState.reset [0x11#8] with refusalMark := true } := rfl

/-- No action is left (log 3). -/
theorem test_step_ends :
    step State.reset = .fault .runEnded := rfl

/-- The host's fetch of one table word (log 3). -/
theorem test_withFetchWord_runs_first :
    step (State.reset.withFetchWord 8 0x13) = exec .envKickDec State.reset := rfl

/-- R14, R226: the observation of a run has its moves, and neither a refused action nor one not enabled. -/
theorem test_observeActs_moves :
    observeActs [.envKickDec, .envPinDec 2#8, .envRecvDec, .envResetEnc]
        (stateOf DecState.reset (encAt true 4#4 0#32 300#32 10#32 1000#16) []) =
      [(.envKickDec, { ppmOut := true, malformed := false, received := [] }),
       (.envResetEnc, { ppmOut := false, malformed := false, received := [] })] := rfl

/-- R14: the steps over the records of the same actions observe the same. -/
theorem test_observeSteps_moves :
    observeSteps 4 (stateOf DecState.reset (encAt true 4#4 0#32 300#32 10#32 1000#16) [0x13#8, 0x15#8, 2#8, 0x14#8, 0x18#8]) =
      [(.envKickDec, { ppmOut := true, malformed := false, received := [] }),
       (.envResetEnc, { ppmOut := false, malformed := false, received := [] })] := rfl

/-- A SEND whose message fits no record has none (log 13). -/
theorem test_encode_unfit_send :
    encode (.envSendDec { poke 1#32 with len := 2 }) = none ∧
      assemble [.envKickDec, .envSendEnc { poke 1#32 with len := 0 }] = none := by decide

/-! ## Witnesses: a state and operands that meet the hypotheses of each statement that has some -/

/-- Δ = 1 is legal at every LAT_MAX. -/
theorem delta_one_ok : 1 ≤ (1#32).toNat ∧ (1#32).toNat ≤ Config.params.latMax :=
  ⟨by decide, Config.params_latMax_pos⟩

theorem delta_one_deltaOk : deltaOk Config.params 1#32 = true := by
  simp [deltaOk, Config.params_latMax_pos]

/-- A message of one byte is legal at every MSG_MAX. -/
theorem poke_ok : (poke 1#32).len ≤ Config.params.msgMax ∧ (poke 1#32).len = (poke 1#32).data.length :=
  ⟨le_trans (by decide) Config.params_msgMax_ge, rfl⟩

/-- The next state of a step that performs a record. -/
def decoderRuns (d : DecState) (script : List Byte) : State := stateOf d EncState.reset script

/-- A state with a running encoder. -/
def encoderRuns (u : EncState) (script : List Byte) : State := stateOf DecState.reset u script

theorem witness_DecodeReadsEncodedRecord_step :
    (Instr.decStep 0xFFFFFFFF#32).encodable = true ∧
      encode (.decStep 0xFFFFFFFF#32) = some [0#8, 0xFF#8, 0xFF#8, 0xFF#8, 0xFF#8] := by decide

theorem witness_DecodeReadsEncodedRecord_send :
    (Instr.envSendEnc { src := 1#32, dst := 2#32, len := 1, data := [7#8] }).encodable = true ∧
      encode (.envSendEnc { src := 1#32, dst := 2#32, len := 1, data := [7#8] }) =
        some [0x1A#8, 1#8, 0#8, 0#8, 0#8, 2#8, 0#8, 0#8, 0#8, 1#8, 0#8, 7#8] := by decide

theorem witness_DecodedBytesAreTheRecord :
    decode [0x15#8, 0x02#8, 0x00#8] = .ok (.envPinDec 2#8, [0x00#8]) := by decide

theorem witness_ChannelWriteChangesOneChannel : (0 : Nat) < 12 ∧ (11 : Nat) < 12 := by decide

theorem witness_MemWriteThenReadImage : (22 : Nat) + 2 ≤ 24 ∧ (24 : Nat) + 0 ≤ 24 ∧ (0 : Nat) + 24 ≤ 24 := by decide

theorem witness_PackLaysOutLittleEndian : (23 : Nat) < 24 ∧ (11 : Nat) < 12 := by decide

theorem witness_UnpackInvertsPack :
    (List.replicate 24 0xFF#8).length = 24 ∧ (11 : Nat) < 12 ∧ 24 ≤ (List.replicate 24 0xFF#8).length := by decide

theorem witness_DecRiseChanRowStores : (decoderRuns (decAt false 0#32 11#4) []).dec.idx.toNat < 12 := by decide

theorem witness_EncFallChanRow :
    (encoderRuns (encAt true 11#4 0#32 0#32 0#32 1000#16) []).enc.idx.toNat < 12 := by decide

theorem witness_EncMsgApplyCopiesBytes :
    (toEnc (List.replicate 25 7#8)).len = (toEnc (List.replicate 25 7#8)).data.length ∧
      (23 : Nat) < min (toEnc (List.replicate 25 7#8)).len 24 ∧
      min (toEnc (List.replicate 25 7#8)).len 24 ≤ (24 : Nat) := by decide

/-- Two queued messages, the second short, as in V46 and V47. -/
def encQueued : EncState :=
  { EncState.reset with inq := [toEnc (pack (frameOf 1900#16)), toEnc [0xE8#8, 0x03#8, 0xFF#8]] }

theorem witness_EncBridgeServiceDrains :
    ∀ m ∈ (encoderRuns encQueued []).enc.inq, m.len = m.data.length := by
  intro m h
  simp only [encoderRuns, stateOf, encQueued, List.mem_cons, List.not_mem_nil, or_false] at h
  rcases h with rfl | rfl <;> rfl

/-- Byte 23, the last, is covered by the first message alone, which both length policies accept. -/
theorem witness_EncBridgeServiceDrains_covered :
    accept Config.params (toEnc (pack (frameOf 1900#16))) = true ∧
      23 < min (toEnc (pack (frameOf 1900#16))).len 24 ∧
      ¬ 23 < min (toEnc [0xE8#8, 0x03#8, 0xFF#8]).len 24 := by
  refine ⟨?_, by decide +kernel, by decide⟩
  have h : (toEnc (pack (frameOf 1900#16))).len = 24 := pack_length _
  unfold accept
  split <;> simp [h]

theorem witness_EncLastMessageWins :
    (encoderRuns { EncState.reset with inq := [poke 1#32, toEnc (List.replicate 24 7#8)] } []).enc.inq =
        [poke 1#32] ++ toEnc (List.replicate 24 7#8) :: [] ∧
      (toEnc (List.replicate 24 7#8)).len = 24 ∧ (toEnc (List.replicate 24 7#8)).data.length = 24 ∧
      ∀ x ∈ ([] : List Message), accept Config.params x = false :=
  ⟨by decide, by decide, by decide, fun _ h => by cases h⟩

theorem witness_SendAppendsOrHasNoMove :
    (poke 1#32).len ≤ Config.params.msgMax ∧ (poke 1#32).len = (poke 1#32).data.length := poke_ok

theorem witness_SendAppendsOrHasNoMove_room :
    (decoderRuns DecState.reset []).dec.inq.length < Config.params.qInCap := Config.params_qInCap_pos

theorem witness_SendAppendsOrHasNoMove_full :
    ¬ (decoderRuns { DecState.reset with inq := List.replicate Config.params.qInCap (poke 1#32) } []).dec.inq.length <
      Config.params.qInCap := by
  simp [decoderRuns, stateOf]

theorem witness_RunStartsFromBothResets :
    ∃ t u, exec .envResetDec State.reset = .next t ∧ exec .envResetEnc t = .next u := ⟨_, _, rfl, rfl⟩

theorem witness_DecStepInitWaitsForReady :
    1 ≤ (1#32).toNat ∧ (1#32).toNat ≤ Config.params.latMax ∧
      (decoderRuns DecState.reset []).dec.mode = .init ∧
      (decoderRuns { DecState.reset with ready := true } []).dec.mode = .init :=
  ⟨delta_one_ok.1, delta_one_ok.2, rfl, rfl⟩

/-- A product with CPU that a counter holds. -/
theorem cpuMul_lt (n : Nat) (h : n ≤ 22500) : n * Config.params.cpu < 4294967296 := by
  have := Nat.mul_le_mul h Config.params_cpu_le
  omega

/-- The counter at n µs and k cycles reads n · CPU + k. -/
theorem cyc_at (n k : Nat) (h : n ≤ 22499) (hk : k ≤ 1) :
    (BitVec.ofNat 32 (n * Config.params.cpu + k)).toNat = n * Config.params.cpu + k := by
  have h1 := Nat.mul_le_mul h Config.params_cpu_le
  rw [BitVec.toNat_ofNat]
  omega

/-- A rising edge exactly at MAX_GAP_C, with the index about to wrap. -/
theorem witness_DecStepTakesItsCase_chan :
    1 ≤ (1#32).toNat ∧ (1#32).toNat ≤ Config.params.latMax ∧
      (decAt false (BitVec.ofNat 32 (1720 * Config.params.cpu + 0)) 12#4).mode = .run ∧
      (decAt false (BitVec.ofNat 32 (1720 * Config.params.cpu + 0)) 12#4).kick = false ∧
      ¬ (decAt false (BitVec.ofNat 32 (1720 * Config.params.cpu + 0)) 12#4).cyc.toNat > 1720 * Config.params.cpu ∧
      12 ≤ (decAt false (BitVec.ofNat 32 (1720 * Config.params.cpu + 0)) 12#4).idx.toNat := by
  refine ⟨delta_one_ok.1, delta_one_ok.2, rfl, rfl, ?_, by simp [decAt]⟩
  simp only [decAt]
  rw [cyc_at 1720 0 (by decide) (by decide)]
  omega

/-- A rising edge one cycle past MAX_GAP_C. -/
theorem witness_DecStepTakesItsCase_gap :
    (decAt false (BitVec.ofNat 32 (1720 * Config.params.cpu + 1)) 11#4).mode = .run ∧
      (decAt false (BitVec.ofNat 32 (1720 * Config.params.cpu + 1)) 11#4).kick = false ∧
      (decAt false (BitVec.ofNat 32 (1720 * Config.params.cpu + 1)) 11#4).cyc.toNat > 1720 * Config.params.cpu := by
  refine ⟨rfl, rfl, ?_⟩
  simp only [decAt]
  rw [cyc_at 1720 1 (by decide) (by decide)]
  omega

/-- A falling edge one cycle past MAX_PULSE_C. -/
theorem witness_DecStepTakesItsCase_long :
    (decAt true (BitVec.ofNat 32 (320 * Config.params.cpu + 1)) 4#4).mode = .run ∧
      (decAt true (BitVec.ofNat 32 (320 * Config.params.cpu + 1)) 4#4).kick = false ∧
      (decAt true (BitVec.ofNat 32 (320 * Config.params.cpu + 1)) 4#4).cyc.toNat > 320 * Config.params.cpu := by
  refine ⟨rfl, rfl, ?_⟩
  simp only [decAt]
  rw [cyc_at 320 1 (by decide) (by decide)]
  omega

/-- A running decoder with a signal and a message. -/
def decSignalled : DecState := { decAt false 0#32 0#4 with kick := true, inq := [poke 1#32] }

theorem witness_DecStepServicesAfterTiming :
    ∃ t, (decoderRuns decSignalled []).dec.mode = .run ∧ (decoderRuns decSignalled []).dec.kick = true ∧
      1 ≤ (1#32).toNat ∧ (1#32).toNat ≤ Config.params.latMax ∧
      exec (.decStep 1#32) ((decoderRuns decSignalled []).withDec { decSignalled with kick := false }) = .next t := by
  obtain ⟨t, h⟩ := decStep_next Config.params 1#32
    ((decoderRuns decSignalled []).withDec { decSignalled with kick := false })
  exact ⟨t, rfl, rfl, delta_one_ok.1, delta_one_ok.2, h⟩

theorem witness_EncStepInitWaitsForReady :
    1 ≤ (1#32).toNat ∧ (1#32).toNat ≤ Config.params.latMax ∧ (encoderRuns EncState.reset []).enc.mode = .init ∧
      (encoderRuns { EncState.reset with ready := true } []).enc.mode = .init :=
  ⟨delta_one_ok.1, delta_one_ok.2, rfl, rfl⟩

theorem witness_EncStepWaitsBeforeDeadline :
    1 ≤ (1#32).toNat ∧ (1#32).toNat ≤ Config.params.latMax ∧
      (encoderRuns (encAt true 0#4 0#32 300#32 299#32 1000#16) []).enc.mode = .run ∧
      (encoderRuns (encAt true 0#4 0#32 300#32 299#32 1000#16) []).enc.kick = false ∧
      (encoderRuns (encAt true 0#4 0#32 300#32 299#32 1000#16) []).enc.cyc.toNat <
        (encoderRuns (encAt true 0#4 0#32 300#32 299#32 1000#16) []).enc.deadline.toNat :=
  ⟨delta_one_ok.1, delta_one_ok.2, rfl, rfl, by decide⟩

theorem witness_EncStepRaisesPin :
    1 ≤ (1#32).toNat ∧ (1#32).toNat ≤ Config.params.latMax ∧
      (encoderRuns (encAt false 12#4 0#32 300#32 300#32 1000#16) []).enc.mode = .run ∧
      (encoderRuns (encAt false 12#4 0#32 300#32 300#32 1000#16) []).enc.kick = false ∧
      (encoderRuns (encAt false 12#4 0#32 300#32 300#32 1000#16) []).enc.deadline.toNat ≤
        (encoderRuns (encAt false 12#4 0#32 300#32 300#32 1000#16) []).enc.cyc.toNat ∧
      (encoderRuns (encAt false 12#4 0#32 300#32 300#32 1000#16) []).enc.level = false :=
  ⟨delta_one_ok.1, delta_one_ok.2, rfl, rfl, by decide, rfl⟩

theorem witness_EncStepSchedulesRest_first :
    (encoderRuns (encAt true 0#4 0#32 300#32 300#32 1000#16) []).enc.idx.toNat < 12 ∧
      1 ≤ (1#32).toNat ∧ (1#32).toNat ≤ Config.params.latMax ∧
      (encoderRuns (encAt true 0#4 0#32 300#32 300#32 1000#16) []).enc.mode = .run ∧
      (encoderRuns (encAt true 0#4 0#32 300#32 300#32 1000#16) []).enc.kick = false ∧
      (encoderRuns (encAt true 0#4 0#32 300#32 300#32 1000#16) []).enc.deadline.toNat ≤
        (encoderRuns (encAt true 0#4 0#32 300#32 300#32 1000#16) []).enc.cyc.toNat ∧
      (encoderRuns (encAt true 0#4 0#32 300#32 300#32 1000#16) []).enc.level = true :=
  ⟨by decide, delta_one_ok.1, delta_one_ok.2, rfl, rfl, by decide, rfl⟩

theorem witness_EncStepSchedulesRest_last :
    (encoderRuns (encAt true 11#4 0#32 300#32 300#32 1000#16) []).enc.idx.toNat < 12 ∧
      1 ≤ (1#32).toNat ∧ (1#32).toNat ≤ Config.params.latMax ∧
      (encoderRuns (encAt true 11#4 0#32 300#32 300#32 1000#16) []).enc.mode = .run ∧
      (encoderRuns (encAt true 11#4 0#32 300#32 300#32 1000#16) []).enc.kick = false ∧
      (encoderRuns (encAt true 11#4 0#32 300#32 300#32 1000#16) []).enc.deadline.toNat ≤
        (encoderRuns (encAt true 11#4 0#32 300#32 300#32 1000#16) []).enc.cyc.toNat ∧
      (encoderRuns (encAt true 11#4 0#32 300#32 300#32 1000#16) []).enc.level = true :=
  ⟨by decide, delta_one_ok.1, delta_one_ok.2, rfl, rfl, by decide, rfl⟩

theorem witness_EncStepSchedulesPadding :
    1 ≤ (1#32).toNat ∧ (1#32).toNat ≤ Config.params.latMax ∧
      (encoderRuns (encAt true 12#4 0#32 300#32 300#32 1000#16) []).enc.mode = .run ∧
      (encoderRuns (encAt true 12#4 0#32 300#32 300#32 1000#16) []).enc.kick = false ∧
      (encoderRuns (encAt true 12#4 0#32 300#32 300#32 1000#16) []).enc.deadline.toNat ≤
        (encoderRuns (encAt true 12#4 0#32 300#32 300#32 1000#16) []).enc.cyc.toNat ∧
      (encoderRuns (encAt true 12#4 0#32 300#32 300#32 1000#16) []).enc.level = true ∧
      (encoderRuns (encAt true 12#4 0#32 300#32 300#32 1000#16) []).enc.idx = 12#4 :=
  ⟨delta_one_ok.1, delta_one_ok.2, rfl, rfl, by decide, rfl, rfl⟩

/-- An encoder one cycle before its deadline, with a signal and a message. -/
def encSignalled : EncState :=
  { encAt true 0#4 0#32 300#32 299#32 1000#16 with kick := true, inq := [toEnc (List.replicate 24 7#8)] }

theorem witness_EncStepServicesAfterTiming :
    ∃ t u, (encoderRuns encSignalled []).enc.mode = .run ∧ (encoderRuns encSignalled []).enc.kick = true ∧
      1 ≤ (1#32).toNat ∧ (1#32).toNat ≤ Config.params.latMax ∧
      exec (.encStep 1#32) ((encoderRuns encSignalled []).withEnc { encSignalled with kick := false }) = .next t ∧
      exec .encBridgeService (encoderRuns encSignalled []) = .next u := by
  obtain ⟨t, h⟩ := encStep_next Config.params 1#32
    ((encoderRuns encSignalled []).withEnc { encSignalled with kick := false }) (by decide)
  exact ⟨t, _, rfl, rfl, delta_one_ok.1, delta_one_ok.2, h, rfl⟩

theorem witness_OutOfRangeOperandIsRefused_delta : (0#32).toNat = 0 ∨ (0#32).toNat > Config.params.latMax := .inl rfl

theorem witness_OutOfRangeOperandIsRefused_level : 2 ≤ (2#8).toNat := by decide

theorem witness_OutOfRangeOperandIsRefused_message :
    ({ poke 1#32 with len := Config.params.msgMax + 1 } : Message).len > Config.params.msgMax ∧
      ({ poke 1#32 with len := 0 } : Message).len ≠ ({ poke 1#32 with len := 0 } : Message).data.length :=
  ⟨Nat.lt_succ_self _, by decide⟩

theorem witness_StepPerformsNextRecord :
    decode (decoderRuns DecState.reset [0x00#8, 1#8, 0#8, 0#8, 0#8, 0x13#8]).script =
      .ok (.decStep 1#32, [0x13#8]) := by decide

theorem witness_StepRefusesReservedByte_high :
    (decoderRuns DecState.reset [0x20#8, 0x11#8]).script = 0x20#8 :: [0x11#8] ∧ 32 ≤ (0x20#8).toNat := by decide

theorem witness_StepRefusesReservedByte_word :
    (decoderRuns DecState.reset [0x1F#8]).script = 0x1F#8 :: [] ∧ decodeAct ((0x1F#8).setWidth 5) = none := by decide

theorem witness_InstructionsStopOnlyOutsideChannels :
    12 ≤ (decoderRuns (decAt false 0#32 12#4) []).dec.idx.toNat ∧
      12 ≤ (encoderRuns (encAt true 12#4 0#32 0#32 0#32 0#16) []).enc.idx.toNat := by decide

theorem witness_StepNeverStopsMidRun :
    (encoderRuns (encAt true 12#4 0#32 0#32 0#32 0#16) [0xFF#8]).enc.idx.toNat ≤ 12 ∧
      (encoderRuns (encAt true 12#4 0#32 0#32 0#32 0#16) [0xFF#8]).script ≠ [] := by decide

/-- A reset machine with a kick to come meets the invariants, and a step of it answers a next state. -/
theorem witness_InvariantKeptByEveryStep :
    Invariant Config.params (decoderRuns (decAt true 0#32 12#4) [0x13#8]) ∧
      ∃ t, step (decoderRuns (decAt true 0#32 12#4) [0x13#8]) = .next t := by
  refine ⟨⟨⟨?_, ?_, cyc_le _, Nat.zero_le _, Nat.zero_le _, ?_, ?_⟩,
    ?_, cyc_le _, cyc_le _, cyc_le _, Nat.zero_le _, ?_⟩, _, rfl⟩
  · exact (by decide : (12#4).toNat ≤ 12)
  · intro v hv
    have hv' : v ∈ Frame.reset.toList := hv
    have hr : v = 1000#16 := by simpa [Frame.reset] using hv'
    subst hr
    decide
  · intro h
    cases h
  · intro m h
    cases h
  · exact (by decide : (0#4).toNat ≤ 12)
  · intro _
    rfl

theorem witness_QueuedMessagesStayMessages :
    QueuesHoldMessages Config.params (decoderRuns { DecState.reset with inq := [poke 1#32] } [0x13#8]) ∧
      VarsAtRest (decoderRuns { DecState.reset with inq := [poke 1#32] } [0x13#8]) ∧
      ∃ t, step (decoderRuns { DecState.reset with inq := [poke 1#32] } [0x13#8]) = .next t := by
  refine ⟨⟨?_, (fun m h => by cases h), (fun m h => by cases h)⟩, ⟨rfl, rfl⟩, _, rfl⟩
  intro m h
  obtain rfl := List.mem_singleton.mp h
  simp [msgOk, msgExact, poke_ok.2.symm, poke_ok.1]

theorem witness_RowsOfOneUnitLeaveTheOther :
    ∃ t, exec .envKickDec State.reset = .next t ∧ unitOf .envKickDec = .dec ∧
      (∀ l, Instr.envKickDec ≠ .envPinDec l) ∧ Instr.envKickDec ≠ .envRecvDec :=
  ⟨_, rfl, rfl, (fun _ h => by cases h), (fun h => by cases h)⟩

theorem witness_UnitOutcomeIndependentOfTheOther :
    ∃ t, exec .encRise (encoderRuns EncState.reset []) = .next t ∧ unitOf .encRise = .enc ∧
      (stateOf (decAt true 9#32 3#4) EncState.reset [0x13#8]).enc = (encoderRuns EncState.reset []).enc :=
  ⟨_, rfl, rfl, rfl⟩

theorem witness_RefusalMarkLastsAndHasACause :
    ∃ t, step (decoderRuns DecState.reset [0x15#8, 2#8]) = .next t ∧
      (decoderRuns DecState.reset [0x15#8, 2#8]).refusalMark = false ∧ t.refusalMark = true := ⟨_, rfl, rfl, rfl⟩

theorem witness_DecFrameWrittenOnlyByRiseChan_reset :
    ∃ t, step (decoderRuns { decAt true 0#32 0#4 with frame := frameOf 1500#16 } [0x10#8]) = .next t ∧
      t.dec.frame ≠ (decoderRuns { decAt true 0#32 0#4 with frame := frameOf 1500#16 } [0x10#8]).dec.frame :=
  ⟨_, rfl, by decide⟩

/-- A rise at e = 0 stores 1000 over 1500. -/
theorem witness_DecFrameWrittenOnlyByRiseChan_store :
    ∃ t, step ((decoderRuns { decAt false 0#32 0#4 with frame := frameOf 1500#16 }
        [0#8, 1#8, 0#8, 0#8, 0#8]).withPin true) = .next t ∧
      t.dec.frame ≠ frameOf 1500#16 := by
  have hc : chanValue Config.params 0#32 = 1000#16 := by
    simp [chanValue, clamp, Config.pulseUs, Config.chMin, Config.chMax]
  have hs : decSelect Config.params true (decEnter (decClearEvent
      { decAt false 0#32 0#4 with frame := frameOf 1500#16 })) = .riseChan := by
    rw [decSelect_rise _ _ rfl]
    exact if_neg (Nat.not_lt_zero _)
  have h : ∃ t, decStep Config.params 1#32 ((decoderRuns { decAt false 0#32 0#4 with frame := frameOf 1500#16 }
      []).withPin true) = .next t ∧ t.dec.frame = setChannel (frameOf 1500#16) 0 (chanValue Config.params 0#32) := by
    unfold decStep
    rw [if_pos delta_one_deltaOk]
    show ∃ t, liftDec _ (decRun Config.params true 1#32 (decClearEvent
      { decAt false 0#32 0#4 with frame := frameOf 1500#16 })) = .next t ∧ _
    unfold decRun
    rw [hs]
    exact ⟨_, rfl, rfl⟩
  obtain ⟨t, ht, hf⟩ := h
  refine ⟨t, ht, ?_⟩
  rw [hf, hc]
  decide

theorem witness_OutputPinChangesOnlyAtHitOrReset :
    Instr.envResetEnc.format = .act ∧
      ∃ t, exec .envResetEnc (encoderRuns (encAt true 4#4 0#32 300#32 10#32 1000#16) []) = .next t ∧
      ppmOut t ≠ ppmOut (encoderRuns (encAt true 4#4 0#32 300#32 10#32 1000#16) []) := ⟨rfl, _, rfl, by decide⟩

/-- At a hit with the pin LOW the step changes `ppm_out`. -/
theorem witness_OutputPinChangesOnlyAtHitOrReset_hit :
    (Instr.encStep 1#32).format = .act ∧
      ∃ t, exec (.encStep 1#32) (encoderRuns (encAt false 0#4 0#32 0#32 0#32 1000#16) []) = .next t ∧
      ppmOut t ≠ ppmOut (encoderRuns (encAt false 0#4 0#32 0#32 0#32 1000#16) []) := by
  have h : ∃ t, encStep Config.params 1#32 (encoderRuns (encAt false 0#4 0#32 0#32 0#32 1000#16) []) = .next t ∧
      t.enc.level = true := by
    unfold encStep
    rw [if_pos delta_one_deltaOk]
    exact ⟨_, rfl, rfl⟩
  obtain ⟨t, ht, hl⟩ := h
  refine ⟨rfl, t, ht, ?_⟩
  rw [ppmOut, hl]
  decide

/-- A decoder ready in INIT goes to RUN. -/
theorem witness_ModeAndReadyTransitions_exit :
    ∃ t, step (decoderRuns { DecState.reset with ready := true } [0#8, 1#8, 0#8, 0#8, 0#8]) = .next t ∧
      decode (decoderRuns { DecState.reset with ready := true } [0#8, 1#8, 0#8, 0#8, 0#8]).script =
        .ok (.decStep 1#32, []) ∧
      (decoderRuns { DecState.reset with ready := true } [0#8, 1#8, 0#8, 0#8, 0#8]).dec.mode = .init ∧
      t.dec.mode = .run := by
  have h : ∃ t, decStep Config.params 1#32 (decoderRuns { DecState.reset with ready := true } []) = .next t ∧
      t.dec.mode = .run := by
    unfold decStep
    rw [if_pos delta_one_deltaOk]
    exact ⟨_, rfl, rfl⟩
  obtain ⟨t, ht, hm⟩ := h
  exact ⟨t, ht, by decide, rfl, hm⟩

theorem witness_ModeAndReadyTransitions_reset :
    ∃ t, step (stateOf (decAt true 0#32 0#4) (encAt true 0#4 0#32 0#32 0#32 0#16) [0x18#8]) = .next t ∧
      decode [0x18#8] = .ok (.envResetEnc, []) ∧ t.enc.mode = .init ∧ t.enc.ready = false ∧
      (encAt true 0#4 0#32 0#32 0#32 0#16).mode = .run ∧ (encAt true 0#4 0#32 0#32 0#32 0#16).ready = true :=
  ⟨_, rfl, by decide, rfl, rfl, rfl, rfl⟩

theorem witness_CounterIsSumOfDeltas :
    (∀ d ∈ [1#32, 1#32], 1 ≤ d.toNat ∧ d.toNat ≤ Config.params.latMax) ∧
      (decoderRuns (decAt false 4294967294#32 11#4) []).dec.mode = .run ∧
      (decoderRuns (decAt false 4294967294#32 11#4) []).dec.kick = false ∧
      (decoderRuns (decAt false 4294967294#32 11#4) []).dec.last =
        (decoderRuns (decAt false 4294967294#32 11#4) []).pinIn ∧
      (decoderRuns (decAt false 4294967294#32 11#4) []).dec.idx.toNat < 12 ∧
      (decoderRuns (decAt false 4294967294#32 11#4) []).dec.malformed = false ∧
      VarsAtRest (decoderRuns (decAt false 4294967294#32 11#4) []) := by
  refine ⟨?_, rfl, rfl, rfl, by decide, rfl, rfl, rfl⟩
  intro d h
  have : d = 1#32 := by simpa using h
  subst this
  exact delta_one_ok

theorem witness_LowSegmentIsStoredAsChannel :
    (decoderRuns (decAt true 300#32 11#4) []).dec.idx.toNat < 12 ∧
      (decoderRuns (decAt true 300#32 11#4) []).dec.mode = .run ∧
      (decoderRuns (decAt true 300#32 11#4) []).dec.kick = false ∧
      (decoderRuns (decAt true 300#32 11#4) []).dec.last = true ∧
      1 ≤ 1720 * Config.params.cpu ∧ 1720 * Config.params.cpu ≤ 1720 * Config.params.cpu := by
  have := Config.params_cpu_pos
  exact ⟨by decide, rfl, rfl, rfl, by omega, le_refl _⟩

theorem witness_LongLowResynchronises :
    (decoderRuns (decAt true 300#32 12#4) []).dec.mode = .run ∧
      (decoderRuns (decAt true 300#32 12#4) []).dec.kick = false ∧
      (decoderRuns (decAt true 300#32 12#4) []).dec.last = true ∧
      1720 * Config.params.cpu < 1720 * Config.params.cpu + 1 := ⟨rfl, rfl, rfl, by omega⟩

theorem witness_HostReadReturnsOneFrame :
    (decoderRuns (decAt true 300#32 12#4) []).dec.mode = .run ∧
      (decoderRuns (decAt true 300#32 12#4) []).dec.inq = [] ∧
      (decoderRuns (decAt true 300#32 12#4) []).dec.outq = [] := ⟨rfl, rfl, rfl⟩

theorem witness_HostWriteReplacesFrame :
    (encoderRuns (encAt true 12#4 0#32 300#32 300#32 1000#16) []).enc.mode = .run ∧
      (encoderRuns (encAt true 12#4 0#32 300#32 300#32 1000#16) []).enc.inq = [] ∧
      (encoderRuns (encAt true 12#4 0#32 300#32 300#32 1000#16) []).enc.idx.toNat ≤ 12 := ⟨rfl, rfl, by decide⟩

/-- The encoder after the hit that raised pulse 0, all channels at 1000. -/
def afterPulseZero : EncState := encAt true 0#4 0#32 (BitVec.ofNat 32 (300 * Config.params.cpu)) 1#32 1000#16

theorem witness_LineFrameLastsFrameC :
    (encoderRuns afterPulseZero []).enc.mode = .run ∧ (encoderRuns afterPulseZero []).enc.kick = false ∧
      (encoderRuns afterPulseZero []).enc.level = true ∧ (encoderRuns afterPulseZero []).enc.idx = 0#4 ∧
      (encoderRuns afterPulseZero []).enc.cyc = 1#32 ∧
      (encoderRuns afterPulseZero []).enc.deadline.toNat = 300 * Config.params.cpu ∧
      300 * Config.params.cpu + chanCycles Config.params (encoderRuns afterPulseZero []).enc.frame + 1 ≤
        22500 * Config.params.cpu := by
  refine ⟨rfl, rfl, rfl, rfl, rfl, ?_, ?_⟩
  · have h := cyc_at 300 0 (by decide) (by decide)
    rwa [Nat.add_zero] at h
  have h := Config.params_cpu_pos
  have hc : clamp 1000 = 1000 := by decide
  simp [chanCycles, encoderRuns, stateOf, afterPulseZero, encAt, frameOf, hc]
  omega

end Sys2Proof.Tests
end

/-!
PROOF. clamp over the natural numbers (00_scope.md R11).
-/

namespace Sys2Proof
open Machine

/-- The channel range of R11, with the bounds as numerals. -/
theorem clamp_eq_min_max (v : Nat) : clamp v = min (max v 1000) 2000 := rfl

/-- A value already in the channel range is left as it is. -/
theorem clamp_of_mem_range {v : Nat} (hge : 1000 ≤ v) (hle : v ≤ 2000) : clamp v = v := by
  rw [clamp_eq_min_max, max_eq_left hge, min_eq_left hle]

/-- Settles O5: the bounds are the model's own, and a clamped value lies in the range that clamp keeps. -/
theorem clampBoundsToChannelRange : Obligations.ClampBoundsToChannelRange := by
  intro v
  have hge : 1000 ≤ clamp v := clamp_ge v
  have hle : clamp v ≤ 2000 := clamp_le v
  exact ⟨clamp_eq_min_max v, hge, hle, clamp_of_mem_range hge hle⟩

end Sys2Proof

/-!
PROOF. Byte access to a frame, and pack and unpack (20_memory.md R53 to R55).
-/

namespace Sys2Proof
open Machine

/-! ## Image bytes -/

/-- An image byte before offset 24 is a byte of the channel it lies in (R51). -/
theorem imageByte_eq_some (f : Frame) (j : Nat) (h : j < 24) : imageByte f j = some (chanByte f[j / 2] j) := by
  rw [imageByte, channel_eq_some f (j / 2) (by omega), Option.map_some]

/-- The low byte of channel i stands at image offset 2i (R51). -/
theorem imageByte_even (f : Frame) (i : Nat) (h : i < 12) :
    imageByte f (2 * i) = some (BitVec.ofNat 8 (f[i].toNat % 256)) := by
  simp only [imageByte, show 2 * i / 2 = i by omega, channel_eq_some f i h, Option.map_some, Option.some.injEq]
  apply BitVec.eq_of_toNat_eq
  rw [chanByte_toNat, if_pos (by omega), BitVec.toNat_ofNat]
  omega

/-- The high byte of channel i stands at image offset 2i + 1 (R51). -/
theorem imageByte_odd (f : Frame) (i : Nat) (h : i < 12) :
    imageByte f (2 * i + 1) = some (BitVec.ofNat 8 (f[i].toNat / 256)) := by
  simp only [imageByte, show (2 * i + 1) / 2 = i by omega, channel_eq_some f i h, Option.map_some, Option.some.injEq]
  apply BitVec.eq_of_toNat_eq
  have hv := f[i].isLt
  rw [chanByte_toNat, if_neg (by omega), BitVec.toNat_ofNat]
  omega

/-! ## The little-endian bytes of a number -/

theorem leBytes_length (n v : Nat) : (leBytes n v).length = n := by
  induction n generalizing v with
  | zero => rfl
  | succ n ih => rw [leBytes, List.length_cons, ih]

theorem leBytes_getElem? (n v k : Nat) (h : k < n) : (leBytes n v)[k]? = some (BitVec.ofNat 8 (v / 256 ^ k)) := by
  induction n generalizing v k with
  | zero => omega
  | succ n ih =>
    cases k with
    | zero => simp [leBytes]
    | succ k =>
      rw [leBytes, List.getElem?_cons_succ, ih (v / 256) k (by omega), Nat.div_div_eq_div_mul, ← Nat.pow_succ']

/-! ## MemRead and MemWrite -/

theorem memRead_zero (f : Frame) (a : Nat) (h : a ≤ 24) : memRead f a 0 = some 0 := by
  rw [memRead, if_pos h]

/-- A read of one byte more puts that byte below the rest (R53). -/
theorem memRead_succ (f : Frame) (a n w : Nat) (b : Byte) (hb : imageByte f a = some b)
    (hw : memRead f (a + 1) n = some w) : memRead f a (n + 1) = some (b.toNat + 256 * w) := by
  simp only [memRead, hb, hw]

/-- A read of one byte is that image byte (R53). -/
theorem memRead_one (f : Frame) (j : Nat) (h : j < 24) :
    memRead f j 1 = (imageByte f j).map fun b : Byte => b.toNat := by
  have hb := imageByte_eq_some f j h
  rw [memRead_succ f j 0 0 _ hb (memRead_zero f (j + 1) h), hb]
  rfl

/-- MemRead is the sum of its bytes, each with its weight 256^k (R53). -/
theorem memRead_eq_sum (f : Frame) (a n : Nat) (h : a + n ≤ 24) :
    memRead f a n = some ((List.range n).map fun k => ((imageByte f (a + k)).getD 0#8).toNat * 256 ^ k).sum := by
  induction n generalizing a with
  | zero => exact memRead_zero f a h
  | succ n ih =>
    have hb := imageByte_eq_some f a (by omega)
    have hshift : ∀ k, ((imageByte f (a + (k + 1))).getD 0#8).toNat * 256 ^ (k + 1) =
        256 * (((imageByte f (a + 1 + k)).getD 0#8).toNat * 256 ^ k) := by
      intro k
      rw [show a + (k + 1) = a + 1 + k by omega, Nat.pow_succ]
      ring
    rw [memRead_succ f a n _ _ hb (ih (a + 1) (by omega)), List.sum_range_succ', ← List.sum_map_mul_left]
    simp only [hshift, hb, Nat.add_zero, Option.getD_some, Nat.pow_zero, Nat.mul_one]

/-- A read over the low n bytes of v gives v mod 256^n. -/
theorem memRead_of_imageByte_eq (g : Frame) (a n v : Nat) (h : a + n ≤ 24)
    (hbytes : ∀ k, k < n → imageByte g (a + k) = some (BitVec.ofNat 8 (v / 256 ^ k))) :
    memRead g a n = some (v % 256 ^ n) := by
  induction n generalizing a v with
  | zero => rw [memRead_zero g a h, Nat.pow_zero, Nat.mod_one]
  | succ n ih =>
    have hlow : imageByte g a = some (BitVec.ofNat 8 v) := by simpa using hbytes 0 (by omega)
    have hrest : memRead g (a + 1) n = some (v / 256 % 256 ^ n) := by
      apply ih (a + 1) (v / 256) (by omega)
      intro k hk
      rw [Nat.div_div_eq_div_mul, ← Nat.pow_succ', ← hbytes (k + 1) (by omega),
        show a + 1 + k = a + (k + 1) by omega]
    rw [memRead_succ g a n _ _ hlow hrest, Nat.pow_succ', Nat.mod_mul, BitVec.toNat_ofNat]

theorem memWrite_eq (f : Frame) (a n v : Nat) (h : a + n ≤ 24) :
    memWrite f a n v = some (setImageBytes f a (leBytes n v)) := if_pos h

/-- What MemWrite leaves in the image: the bytes of v from a to a + n, and the old bytes elsewhere (R53). -/
theorem imageByte_setImageBytes_leBytes (f : Frame) (a n v j : Nat) (h : a + n ≤ 24) :
    imageByte (setImageBytes f a (leBytes n v)) j =
      if a ≤ j ∧ j < a + n then some (BitVec.ofNat 8 (v / 256 ^ (j - a))) else imageByte f j := by
  rw [imageByte_setImageBytes _ _ _ _ (by rwa [leBytes_length]), leBytes_length]
  split
  · exact leBytes_getElem? n v (j - a) (by omega)
  · rfl

/-- Settles O8: the written image is known byte by byte, and the read back follows from its bytes. -/
theorem memWriteThenReadImage : Obligations.MemWriteThenReadImage := by
  intro f a n v h
  have hwritten : ∀ k, k < n →
      imageByte (setImageBytes f a (leBytes n v)) (a + k) = some (BitVec.ofNat 8 (v / 256 ^ k)) := by
    intro k hk
    rw [imageByte_setImageBytes_leBytes _ _ _ _ _ h, if_pos (by omega), Nat.add_sub_cancel_left]
  have hkept : ∀ j, j < a ∨ a + n ≤ j → imageByte (setImageBytes f a (leBytes n v)) j = imageByte f j := by
    intro j hj
    rw [imageByte_setImageBytes_leBytes _ _ _ _ _ h, if_neg (by omega)]
  exact ⟨memRead_eq_sum f a n h, _, memWrite_eq f a n v h, hwritten, hkept,
    memRead_of_imageByte_eq _ a n v h hwritten⟩

/-! ## pack and unpack -/

/-- Settles O9: byte j of a packed frame is image byte j. -/
theorem packLaysOutLittleEndian : Obligations.PackLaysOutLittleEndian := by
  intro f
  refine ⟨pack_length f, ?_, ?_⟩
  · intro j hj
    rw [pack_getElem, memRead_one f j hj]
  · intro i hi
    rw [pack_getElem, pack_getElem]
    exact ⟨imageByte_even f i hi, imageByte_odd f i hi⟩

/-- R55, frame to bytes and back: the two frames have the same byte image. -/
theorem unpack_pack (f : Frame) : unpack (pack f) = f := by
  apply frame_ext_imageByte
  intro j
  by_cases hj : j < 24
  · rw [imageByte_unpack _ _ hj, List.getD_eq_getElem?_getD, pack_getElem, imageByte_eq_some f j hj, Option.getD_some]
  · rw [imageByte_eq_none _ j (by omega), imageByte_eq_none _ j (by omega)]

/-- R55, bytes to frame and back: both byte strings have 24 bytes, and the same ones. -/
theorem pack_unpack (b : List Byte) (h : b.length = 24) : pack (unpack b) = b := by
  apply List.ext_getElem (by rw [pack_length, h])
  intro j _ hj
  rw [List.getElem_eq_iff, pack_getElem, imageByte_unpack b j (by omega), List.getD_eq_getElem b _ hj]

theorem unpack_getElem (b : List Byte) (i : Nat) (h : i < 12) : (unpack b)[i] = unpackChan b i := by
  rw [unpack, Vector.getElem_ofFn]

/-- Settles O10: the inverses through the byte image, the channels through the two bytes unpack puts together. -/
theorem unpackInvertsPack : Obligations.UnpackInvertsPack := by
  refine ⟨unpack_pack, pack_unpack, ?_⟩
  intro b i hi _
  rw [unpack_getElem b i hi, unpackChan_toNat, Nat.add_comm]

end Sys2Proof

/-!
PROOF. The reserved words and codes (30_encoding.md R85).
-/

namespace Sys2Proof

/-! ## Action words -/

/-- The number of actions of an agent kind E on a unit U: R71 numbers them from A = 0, and reserves the A after them. -/
def actionCount : Bool → Bool → Nat
  | false, _ => 1
  | true, false => 6
  | true, true => 4

/-- R71: the word of an action decodes to it. -/
theorem decodeAct_word (a : Act) : decodeAct a.word = some a := by
  cases a <;> rfl

/-- R71: a word is its fields E, U and A. -/
theorem actWord_toNat (w : BitVec 5) :
    w.toNat = 16 * (w.getLsbD 4).toNat + 8 * (w.getLsbD 3).toNat + w.toNat % 8 := by
  have hw := w.isLt
  simp only [BitVec.getLsbD, Nat.toNat_testBit]
  omega

/-- R89: a word is no action exactly when its field A is past the actions of its E and U. -/
theorem decodeAct_eq_none_iff_actionCount_le (w : BitVec 5) :
    decodeAct w = none ↔ actionCount (w.getLsbD 4) (w.getLsbD 3) ≤ w.toNat % 8 := by
  unfold decodeAct actionCount
  cases w.getLsbD 4 with
  | false => cases w.getLsbD 3 <;> grind  -- a unit has the one action STEP
  | true =>
    cases w.getLsbD 3 with
    | false => grind  -- the environment on DEC
    | true => grind  -- the environment on ENC

/-- The reserved action words as ranges (R85). -/
theorem decodeAct_eq_none_iff (w : BitVec 5) :
    decodeAct w = none ↔
      (1 ≤ w.toNat ∧ w.toNat ≤ 7) ∨ (9 ≤ w.toNat ∧ w.toNat ≤ 15) ∨ w.toNat = 22 ∨ w.toNat = 23 ∨ 28 ≤ w.toNat := by
  have hw := actWord_toNat w
  have hA : w.toNat % 8 < 8 := Nat.mod_lt _ (by decide)
  rw [decodeAct_eq_none_iff_actionCount_le]
  cases hE : w.getLsbD 4 <;> cases hU : w.getLsbD 3 <;>
    simp only [hE, hU, Bool.toNat_false, Bool.toNat_true, actionCount] at hw ⊢ <;> omega

/-! ## Selector words -/

/-- R80: a counter code is no operation exactly when both its bits are set. -/
theorem decodeCsel_eq_none_iff_bits (w : BitVec 2) :
    decodeCsel w = none ↔ w.getLsbD 1 = true ∧ w.getLsbD 0 = true := by
  unfold decodeCsel
  cases w.getLsbD 1 <;> cases w.getLsbD 0 <;> simp

/-- R85: a counter code is no operation exactly when it is 11. -/
theorem decodeCsel_eq_none_iff (w : BitVec 2) : decodeCsel w = none ↔ w = 0b11#2 := by
  rw [decodeCsel_eq_none_iff_bits]
  constructor
  · rintro ⟨h1, h0⟩
    apply BitVec.eq_of_getLsbD_eq
    intro i hi
    interval_cases i
    · exact h0
    · exact h1
  · rintro rfl
    exact ⟨rfl, rfl⟩

/-- R77: an ESEL pattern is no case exactly when F and Z are set, whatever H and N are. -/
theorem decodeEsel_eq_none_iff (w : BitVec 4) :
    decodeEsel w = none ↔ w.getLsbD 1 = true ∧ w.getLsbD 0 = true := by
  unfold decodeEsel
  split
  next hF hZ => simp only [hF, hZ, and_self]
  all_goals grind

/-- Settles O3: the round trip of the twelve actions, and one lemma for each kind of reserved word. -/
theorem reservedWordsAreExactlyThoseOfR85 : Obligations.ReservedWordsAreExactlyThoseOfR85 :=
  ⟨decodeAct_word, decodeAct_eq_none_iff, decodeCsel_eq_none_iff, decodeEsel_eq_none_iff⟩

end Sys2Proof

/-!
PROOF. The cycle counter's rows (40_cycle_counter.md R100 to R106).
-/

namespace Sys2Proof
open Machine

/-- The saturating sum of R103 as a word, with CYC_MAX as a numeral. -/
theorem tickValue_eq_ofNat_min (c delta : Cyc) :
    tickValue c delta = BitVec.ofNat 32 (min (c.toNat + delta.toNat) 4294967295) := by
  have hsum : (tickValue c delta).toNat = min (c.toNat + delta.toNat) 4294967295 := tickValue_toNat c delta
  rw [← hsum, BitVec.ofNat_toNat, BitVec.setWidth_eq]

theorem exec_ctrTick_dec (s : State) (delta : Cyc) :
    exec (.ctrTick .dec delta) s = .next (s.withDec { s.dec with cyc := tickValue s.dec.cyc delta }) := rfl

theorem exec_ctrTick_enc (s : State) (delta : Cyc) :
    exec (.ctrTick .enc delta) s = .next (s.withEnc { s.enc with cyc := tickValue s.enc.cyc delta }) := rfl

/-- Settles O11: CTR_TICK's row on each unit, with the value it leaves written as the saturating sum. -/
theorem ctrTickSaturatingAdvance : Obligations.CtrTickSaturatingAdvance := by
  refine ⟨rfl, fun s delta => ⟨?_, ?_⟩⟩
  · rw [exec_ctrTick_dec, tickValue_eq_ofNat_min]
  · rw [exec_ctrTick_enc, tickValue_eq_ofNat_min]

end Sys2Proof

/-!
PROOF. The decoder's input pin and its INIT step (41_decoder.md R122, R136).
-/

namespace Sys2Proof
open Machine

/-! ## The input pin -/

/-- A legal level drives the pin to its bit 0 (R72, R84, R136). -/
theorem exec_envPinDec_of_levelOk (s : State) (level : Byte) (h : levelOk level = true) :
    exec (.envPinDec level) s = .next (s.withPin (levelBit level)) := by
  have hexec : exec (.envPinDec level) s = .next (envPinDec level s) := rfl
  rw [hexec, envPinDec, if_pos h]

/-- Settles O28: the two legal levels, each with its bit. -/
theorem pinSetsInputLevel : Obligations.PinSetsInputLevel := by
  refine ⟨decodeAct_word .envPinDec, fun s => ⟨?_, ?_⟩⟩
  · exact exec_envPinDec_of_levelOk s 0#8 rfl
  · exact exec_envPinDec_of_levelOk s 1#8 rfl

/-! ## DEC_STEP in INIT -/

/-- The Δ check of R72 as its two bounds. -/
theorem deltaOk_iff (p : Params) (delta : Cyc) :
    deltaOk p delta = true ↔ 1 ≤ delta.toNat ∧ delta.toNat ≤ p.latMax := by
  rw [deltaOk, Bool.and_eq_true, decide_eq_true_eq, decide_eq_true_eq]

/-- For a legal Δ, DEC_STEP is the decoder unit's step (R72, R121). -/
theorem exec_decStep_of_deltaOk (s : State) (delta : Cyc) (h : deltaOk Config.params delta = true) :
    exec (.decStep delta) s = liftDec s (decStepUnit Config.params s.pinIn delta s.dec) := by
  have hexec : exec (.decStep delta) s = decStep Config.params delta s := rfl
  rw [hexec, decStep, if_pos h]

/-- In INIT the decoder unit does nothing but clear its event and wait for the host (R121, R122). -/
theorem decStepUnit_of_init (p : Params) (cur : Bool) (delta : Cyc) (d : DecState) (h : d.mode = .init) :
    decStepUnit p cur delta d = .ok (decInit (decClearEvent d)) := by
  rw [decStepUnit, h]

/-- The wait of R122, with the event cleared before it, by `dec.ready`. -/
theorem decInit_decClearEvent (d : DecState) :
    decInit (decClearEvent d) =
      if d.ready then { d with malformed := false, mode := .run, cyc := 0#32 }
      else { d with malformed := false } := rfl

/-- Settles O32: the legal Δ passes its check, and INIT leaves the unit only the host-readiness wait. -/
theorem decStepInitWaitsForReady : Obligations.DecStepInitWaitsForReady := by
  refine ⟨decodeAct_word .decStep, fun s delta hpos hmax hinit => ?_⟩
  have hdelta : deltaOk Config.params delta = true := (deltaOk_iff Config.params delta).mpr ⟨hpos, hmax⟩
  rw [exec_decStep_of_deltaOk s delta hdelta, decStepUnit_of_init _ _ _ _ hinit, decInit_decClearEvent]
  rfl

end Sys2Proof

/-!
PROOF. The encoder's INIT step and its output pin (42_encoder.md R152, R161).
-/

namespace Sys2Proof
open Machine Safety

/-! ## ENC_STEP in INIT -/

theorem exec_encStep (s : State) (delta : Cyc) : exec (.encStep delta) s = encStep Config.params delta s := rfl

/-- For a legal Δ in INIT, ENC_STEP is the host-readiness wait (R151, R152). -/
theorem encStep_of_init (p : Params) (delta : Cyc) (s : State) (hdelta : deltaOk p delta = true)
    (hinit : s.enc.mode = .init) : encStep p delta s = .next (s.withEnc (encInit s.enc)) := by
  rw [encStep, if_pos hdelta, hinit]

/-- The wait of R152 on the whole state, by `enc.ready`. -/
theorem withEnc_encInit (s : State) :
    s.withEnc (encInit s.enc) = if s.enc.ready then s.withEnc { s.enc with mode := .run, cyc := 0#32 } else s := by
  rw [encInit, apply_ite s.withEnc, State.withEnc_self]

/-- Settles O35: the legal Δ passes its check, and INIT leaves only the host-readiness wait. -/
theorem encStepInitWaitsForReady : Obligations.EncStepInitWaitsForReady := by
  refine ⟨decodeAct_word .encStep, fun s delta hpos hmax hinit => ?_⟩
  have hdelta : deltaOk Config.params delta = true := (deltaOk_iff Config.params delta).mpr ⟨hpos, hmax⟩
  rw [exec_encStep, encStep_of_init _ _ _ hdelta hinit, withEnc_encInit]

/-! ## What DEC's rows leave of the encoder -/

theorem envSendDec_enc (p : Params) (m : Message) (s : State) : (envSendDec p m s).enc = s.enc := by
  unfold envSendDec
  split
  · split <;> rfl  -- room in the queue, or none
  · rfl

theorem envRecvDec_enc (s : State) : (envRecvDec s).enc = s.enc := by
  unfold envRecvDec
  split <;> rfl

theorem envPinDec_enc (level : Byte) (s : State) : (envPinDec level s).enc = s.enc := by
  unfold envPinDec
  split <;> rfl

theorem liftDec_enc {s t : State} {r : Except Fault DecState} (h : liftDec s r = .next t) : t.enc = s.enc := by
  obtain ⟨d, -, rfl⟩ := liftDec_next h
  rfl

theorem decStep_enc {p : Params} {delta : Cyc} {s t : State} (h : decStep p delta s = .next t) :
    t.enc = s.enc := by
  obtain ⟨-, rfl⟩ | ⟨-, -, rfl⟩ | ⟨-, -, d, -, rfl⟩ := decStep_cases h <;> rfl

/-- R20: the units share nothing, so a row of DEC leaves the encoder as it was. -/
theorem exec_enc_of_unitOf_dec {i : Instr} {s t : State} (hu : unitOf i = .dec) (h : exec i s = .next t) :
    t.enc = s.enc := by
  cases i with
  | decStep delta => exact decStep_enc h
  | envSendDec m => cases h; exact envSendDec_enc _ m s
  | envRecvDec => cases h; exact envRecvDec_enc s
  | envPinDec level => cases h; exact envPinDec_enc level s
  | decRiseChan => exact liftDec_enc h
  | envResetDec | envReadyDec | envKickDec | decIdleLow | decIdleHigh | decRiseGap | decFallOk | decFallLong
  | decBridgeIdle | decBridgeService | decMsgDiscard => cases h; rfl
  | ctrTick | ctrRead | ctrResetTick => cases hu; cases h; rfl
  | encStep | envResetEnc | envReadyEnc | envSendEnc | envKickEnc | encWait | encRise | encFallFirst | encFallChan
  | encFallPad | encBridgeIdle | encBridgeService | encMsgApply | encMsgReject => cases hu

/-! ## What leaves `enc.level` unchanged -/

theorem encInit_level (u : EncState) : (encInit u).level = u.level := by
  unfold encInit
  split <;> rfl

theorem bridgeEnc_level (p : Params) (u : EncState) : (bridgeEnc p u).level = u.level := by
  rw [bridgeEnc_eq, encBridgeService_eq]
  split <;> rfl

theorem encCounterPart_level (delta : Cyc) (u : EncState) : (encCounterPart delta u).level = u.level := by
  unfold encCounterPart
  split <;> rfl

/-- The parts of a RUN step after its case keep the level the case left. -/
theorem encLeave_level (p : Params) (delta : Cyc) (u : EncState) : (encLeave p delta u).level = u.level :=
  calc (encLeave p delta u).level
      = (encCounterPart delta (bridgeEnc p u)).level := rfl
    _ = (bridgeEnc p u).level := encCounterPart_level delta _
    _ = u.level := bridgeEnc_level p u

theorem envSendEnc_level (p : Params) (m : Message) (s : State) :
    (envSendEnc p m s).enc.level = s.enc.level := by
  unfold envSendEnc
  split
  · split <;> rfl  -- room in the queue, or none
  · rfl

/-! ## What changes it -/

/-- An ENC_STEP that changes the level is a RUN step with a hit: before the deadline the case is ENC_WAIT (R155). -/
theorem encStep_hit_of_level_ne {p : Params} {delta : Cyc} {s t : State} (h : encStep p delta s = .next t)
    (hne : t.enc.level ≠ s.enc.level) : s.enc.mode = .run ∧ s.enc.deadline.toNat ≤ s.enc.cyc.toNat := by
  obtain ⟨-, rfl⟩ | ⟨-, -, rfl⟩ | ⟨-, hrun, c, u, hcase, htake, rfl⟩ := encStep_cases h
  · exact absurd rfl hne
  · exact absurd (encInit_level s.enc) hne
  · refine ⟨hrun, ?_⟩
    by_contra hmiss
    rw [encSelect_wait (encEnter s.enc) (Nat.lt_of_not_le hmiss)] at hcase
    cases hcase
    cases htake
    exact hne (encLeave_level p delta (encEnter s.enc))

/-- The actions on the encoder (R71: U = 1). -/
theorem act_enc_cases {i : Instr} (hact : i.format = .act) (hu : unitOf i = .enc) :
    (∃ delta, i = .encStep delta) ∨ i = .envResetEnc ∨ i = .envReadyEnc ∨ (∃ m, i = .envSendEnc m) ∨
      i = .envKickEnc := by
  cases i <;> simp_all [Instr.format, unitOf]

/-- Settles O53: DEC's actions leave the encoder alone, and of the encoder's only ENC_STEP and the reset touch its
level. -/
theorem outputPinChangesOnlyAtHitOrReset : Obligations.OutputPinChangesOnlyAtHitOrReset := by
  refine ⟨fun _ => rfl, fun s t h => by cases h; rfl, fun i s t hact h hne => ?_⟩
  cases hu : unitOf i with
  | dec => exact absurd (congrArg EncState.level (exec_enc_of_unitOf_dec hu h)) hne
  | enc =>
    obtain ⟨delta, rfl⟩ | rfl | rfl | ⟨m, rfl⟩ | rfl := act_enc_cases hact hu
    · exact .inr ⟨⟨delta, rfl⟩, encStep_hit_of_level_ne h hne⟩
    · exact .inl rfl
    · cases h
      exact absurd rfl hne
    · cases h
      exact absurd (envSendEnc_level _ m s) hne
    · cases h
      exact absurd rfl hne

end Sys2Proof

/-!
PROOF. The host bridges and the host's signals (43_bridge.md R184 to R187, R190, R195, R196;
70_reset_and_hazards.md R233, R234).
-/

namespace Sys2Proof
open Machine

/-! ## Selector words -/

/-- R78: the word of a message treatment decodes to it. -/
theorem decodeMsel_word (c : MsgCase) : decodeMsel c.word = c := by
  cases c <;> rfl

/-- R78: on DEC (U = 0) a message is discarded whatever the bit A is. -/
theorem decodeMsel_of_dec (w : BitVec 2) (h : w.getLsbD 1 = false) : decodeMsel w = .decDiscard := by
  rw [decodeMsel, h]

/-- R79: the word of a bridge case decodes to it. -/
theorem decodeBsel_word (c : BridgeCase) : decodeBsel c.word = c := by
  cases c <;> rfl

/-! ## ENC_MSG_APPLY -/

theorem exec_encMsgApply (s : State) (m : Message) :
    exec (.encMsgApply m) s =
      .next (s.withEnc { s.enc with frame := setImageBytes s.enc.frame 0 (appliedBytes m) }) := rfl

/-- A message with len = |data| (R68) applies min(len, 24) bytes (R190). -/
theorem appliedBytes_length (m : Message) (h : m.len = m.data.length) :
    (appliedBytes m).length = min m.len 24 := by
  rw [appliedBytes, List.length_take, ← h]
  omega

theorem appliedBytes_getElem? (m : Message) (j : Nat) (hj : j < min m.len 24) :
    (appliedBytes m)[j]? = m.data[j]? := by
  rw [appliedBytes, List.getElem?_take_of_lt hj]

/-- The copy of R190 byte by byte: the message's bytes over the first min(len, 24), the frame's own after them. -/
theorem imageByte_setImageBytes_appliedBytes (f : Frame) (m : Message) (j : Nat) (h : m.len = m.data.length) :
    imageByte (setImageBytes f 0 (appliedBytes m)) j =
      if j < min m.len 24 then m.data[j]? else imageByte f j := by
  have hlen : (appliedBytes m).length = min m.len 24 := appliedBytes_length m h
  rw [imageByte_setImageBytes _ _ _ _ (by omega), hlen, Nat.sub_zero]
  by_cases hj : j < min m.len 24
  · rw [if_pos (by omega), if_pos hj, appliedBytes_getElem? m j hj]
  · rw [if_neg (by omega), if_neg hj]

/-- Settles O21: the new frame is the copy of R190, known byte by byte. -/
theorem encMsgApplyCopiesBytes : Obligations.EncMsgApplyCopiesBytes := by
  refine ⟨decodeMsel_word .encApply, fun s m hlen => ⟨_, exec_encMsgApply s m, fun j hj => ?_, fun j hj => ?_⟩⟩
  · rw [imageByte_setImageBytes_appliedBytes _ _ _ hlen, if_pos hj]
  · rw [imageByte_setImageBytes_appliedBytes _ _ _ hlen, if_neg (Nat.not_lt.mpr hj)]

/-! ## DEC_BRIDGE_SERVICE and DEC_MSG_DISCARD -/

theorem exec_decBridgeService (s : State) :
    exec .decBridgeService s = .next (s.withDec (decBridgeService Config.params s.dec)) := rfl

/-- Settles O22: the row is the decoder's service, and what a service leaves is its drain and its one reply. -/
theorem decBridgeServiceDrainsAndReplies : Obligations.DecBridgeServiceDrainsAndReplies := by
  refine ⟨decodeBsel_word .decService, fun s => ?_⟩
  rw [exec_decBridgeService, decBridgeService_eq]

theorem exec_decMsgDiscard (s : State) (m : Message) :
    exec (.decMsgDiscard m) s = .next (s.withDec { s.dec with peer := m.src }) := rfl

/-- Settles O20: both words have U = 0, and the row writes the peer alone. -/
theorem decMsgDiscardKeepsOnlySource : Obligations.DecMsgDiscardKeepsOnlySource :=
  ⟨decodeMsel_of_dec 0b00#2 rfl, decodeMsel_of_dec 0b01#2 rfl, exec_decMsgDiscard⟩

/-! ## The host's kick and readiness signals -/

theorem exec_envKickDec (s : State) : exec .envKickDec s = .next (s.withDec { s.dec with kick := true }) := rfl

theorem exec_envKickEnc (s : State) : exec .envKickEnc s = .next (s.withEnc { s.enc with kick := true }) := rfl

theorem exec_envReadyDec (s : State) : exec .envReadyDec s = .next (s.withDec { s.dec with ready := true }) := rfl

theorem exec_envReadyEnc (s : State) : exec .envReadyEnc s = .next (s.withEnc { s.enc with ready := true }) := rfl

/-- Settles O27: the two kick words are those of R71, and each of the four rows writes its one bit. -/
theorem kickAndReadySetOneBit : Obligations.KickAndReadySetOneBit :=
  ⟨decodeAct_word .envKickDec, decodeAct_word .envKickEnc, fun s =>
    ⟨exec_envKickDec s, exec_envKickEnc s, exec_envReadyDec s, exec_envReadyEnc s⟩⟩

end Sys2Proof

/-!
PROOF. The resets of the two units (70_reset_and_hazards.md R230, R231; reset values: 10_state.md R45).
-/

namespace Sys2Proof
open Machine

/-! ## The reset values -/

theorem frameReset_eq_replicate : Frame.reset = Vector.replicate 12 1000#16 := rfl

theorem stepVarsRest_eq : StepVars.rest = { e := 0#32, rst := false } := rfl

/-- R45 for the decoder, with the peer's reset value of R8. -/
theorem decReset_eq : DecState.reset = {
    mode := .init, ready := false, cyc := 0#32, kick := false, inq := [], last := false, idx := 0#4,
    frame := Vector.replicate 12 1000#16, peer := 0#32, outq := [], malformed := false,
    vars := { e := 0#32, rst := false } } := by
  rw [DecState.reset, frameReset_eq_replicate, stepVarsRest_eq, Config.peerReset]

/-- R45 for the encoder. -/
theorem encReset_eq : EncState.reset = {
    mode := .init, ready := false, cyc := 0#32, kick := false, inq := [], level := false, idx := 0#4,
    acc := 0#32, deadline := 0#32, frame := Vector.replicate 12 1000#16,
    vars := { e := 0#32, rst := false } } := by
  rw [EncState.reset, frameReset_eq_replicate, stepVarsRest_eq]

/-! ## ENV_RESET_DEC and ENV_RESET_ENC -/

theorem exec_envResetDec (s : State) : exec .envResetDec s = .next (s.withDec DecState.reset) := rfl

theorem exec_envResetEnc (s : State) : exec .envResetEnc s = .next (s.withEnc EncState.reset) := rfl

/-- Settles O29: the word is the action's own (R71), and the row puts the decoder's reset values of R45 in place. -/
theorem resetDecRestoresResetValues : Obligations.ResetDecRestoresResetValues := by
  refine ⟨decodeAct_word .envResetDec, fun s => ?_⟩
  rw [exec_envResetDec, decReset_eq]

/-- Settles O30: the word is the action's own (R71), and the row puts the encoder's reset values of R45 in place. -/
theorem resetEncRestoresResetValues : Obligations.ResetEncRestoresResetValues := by
  refine ⟨decodeAct_word .envResetEnc, fun s => ?_⟩
  rw [exec_envResetEnc, encReset_eq]

end Sys2Proof

/-!
PROOF. The serialised action records (30_encoding.md R71, R73). Each operand format has one equivalence: the bytes are
read as an operand exactly when they are the operand's own bytes and what follows.
-/

namespace Sys2Proof

/-! ## The operands' bytes -/

/-- A little-endian field is read exactly from the bytes of its value. -/
theorem takeLe_eq_some_iff (n v : Nat) (bs rest : List Byte) :
    takeLe n bs = some (v, rest) ↔ v < 256 ^ n ∧ bs = leBytes n v ++ rest := by
  induction n generalizing v bs with
  | zero =>
    simp only [takeLe, leBytes, Option.some.injEq, Prod.mk.injEq, Nat.pow_zero, Nat.lt_one_iff, List.nil_append]
    exact and_congr_left' eq_comm
  | succ n ih =>
    cases bs with
    | nil => simp [takeLe, leBytes]
    | cons b bs =>
      have hb := b.isLt
      constructor
      · intro h
        cases htail : takeLe n bs with
        | none => simp [takeLe, htail] at h
        | some x =>
          obtain ⟨w, rest'⟩ := x
          simp only [takeLe, htail, Option.some.injEq, Prod.mk.injEq] at h
          obtain ⟨rfl, rfl⟩ := h
          obtain ⟨hw, rfl⟩ := (ih w bs).mp htail
          have hlow : BitVec.ofNat 8 (b.toNat + 256 * w) = b := by
            apply BitVec.eq_of_toNat_eq
            rw [BitVec.toNat_ofNat]
            omega
          have hhigh : (b.toNat + 256 * w) / 256 = w := by omega
          exact ⟨by rw [Nat.pow_succ]; omega, by rw [leBytes, hlow, hhigh, List.cons_append]⟩
      · rintro ⟨hv, hbs⟩
        rw [leBytes, List.cons_append, List.cons.injEq] at hbs
        obtain ⟨rfl, hbs⟩ := hbs
        have hhigh : v / 256 < 256 ^ n := by rw [Nat.pow_succ] at hv; omega
        have htail : takeLe n bs = some (v / 256, rest) := (ih (v / 256) bs).mpr ⟨hhigh, hbs⟩
        simp only [takeLe, htail, BitVec.toNat_ofNat]
        rw [show v % 2 ^ 8 + 256 * (v / 256) = v by omega]

/-- `n` bytes are read exactly from a byte string of that length. -/
theorem takeBytes_eq_some_iff (n : Nat) (data bs rest : List Byte) :
    takeBytes n bs = some (data, rest) ↔ data.length = n ∧ bs = data ++ rest := by
  induction n generalizing data bs with
  | zero =>
    simp only [takeBytes, Option.some.injEq, Prod.mk.injEq, List.length_eq_zero_iff]
    constructor
    · rintro ⟨rfl, rfl⟩
      exact ⟨rfl, rfl⟩
    · rintro ⟨rfl, rfl⟩
      exact ⟨rfl, rfl⟩
  | succ n ih =>
    cases bs with
    | nil => cases data <;> simp [takeBytes]
    | cons b bs =>
      constructor
      · intro h
        cases htail : takeBytes n bs with
        | none => simp [takeBytes, htail] at h
        | some x =>
          obtain ⟨data', rest'⟩ := x
          simp only [takeBytes, htail, Option.some.injEq, Prod.mk.injEq] at h
          obtain ⟨rfl, rfl⟩ := h
          obtain ⟨rfl, rfl⟩ := (ih data' bs).mp htail
          exact ⟨rfl, rfl⟩
      · rintro ⟨hlen, hbs⟩
        cases data with
        | nil => cases hlen
        | cons c data =>
          rw [List.cons_append, List.cons.injEq] at hbs
          obtain ⟨rfl, hbs⟩ := hbs
          have htail : takeBytes n bs = some (data, rest) := (ih data bs).mpr ⟨Nat.succ.inj hlen, hbs⟩
          simp only [takeBytes, htail]

/-- A number of four bytes is a word of 32 bits. -/
theorem toNat_ofNat_of_lt_bytes {v : Nat} (h : v < 256 ^ 4) : (BitVec.ofNat 32 v).toNat = v := by
  rw [BitVec.toNat_ofNat]
  omega

/-- The Δ of a STEP record is its four bytes (R73). -/
theorem decodeDelta_eq_ok_iff (a : Act) (k : Cyc → Instr) (bs rest : List Byte) (i : Instr) :
    decodeDelta a k bs = .ok (i, rest) ↔ ∃ delta : Cyc, i = k delta ∧ bs = leBytes 4 delta.toNat ++ rest := by
  constructor
  · intro h
    cases htake : takeLe 4 bs with
    | none => simp [decodeDelta, htake] at h
    | some x =>
      obtain ⟨v, rest'⟩ := x
      simp only [decodeDelta, htake, Except.ok.injEq, Prod.mk.injEq] at h
      obtain ⟨rfl, rfl⟩ := h
      obtain ⟨hv, rfl⟩ := (takeLe_eq_some_iff _ _ _ _).mp htake
      exact ⟨_, rfl, by rw [toNat_ofNat_of_lt_bytes hv]⟩
  · rintro ⟨delta, rfl, rfl⟩
    have htake := (takeLe_eq_some_iff 4 delta.toNat _ rest).mpr ⟨delta.isLt, rfl⟩
    simp only [decodeDelta, htake, BitVec.ofNat_toNat, BitVec.setWidth_eq]

/-- The level of an ENV_PIN_DEC record is its one byte (R73). -/
theorem decodeLevel_eq_ok_iff (bs rest : List Byte) (i : Instr) :
    decodeLevel bs = .ok (i, rest) ↔ ∃ level : Byte, i = .envPinDec level ∧ bs = level :: rest := by
  cases bs with
  | nil => simp [decodeLevel]
  | cons b bs =>
    simp only [decodeLevel, Except.ok.injEq, Prod.mk.injEq, List.cons.injEq]
    constructor
    · rintro ⟨rfl, rfl⟩
      exact ⟨b, rfl, rfl, rfl⟩
    · rintro ⟨level, rfl, rfl, rfl⟩
      exact ⟨rfl, rfl⟩

/-- A message fits a record when its len is the number of its bytes and two bytes hold it (R73, log 13). -/
theorem fits_iff (m : Message) : m.fits = true ↔ m.len = m.data.length ∧ m.len < 65536 := by
  rw [Message.fits, Bool.and_eq_true, decide_eq_true_eq, decide_eq_true_eq]

/-- The message of a SEND record is its fields' bytes, and only a message that fits is read (R73). -/
theorem decodeMessage_eq_ok_iff (a : Act) (k : Message → Instr) (bs rest : List Byte) (i : Instr) :
    decodeMessage a k bs = .ok (i, rest) ↔
      ∃ m : Message, m.fits = true ∧ i = k m ∧ bs = encodeMessage m ++ rest := by
  constructor
  · intro h
    unfold decodeMessage at h
    split at h
    next => cases h
    next src bs1 hsrc =>
    split at h
    next => cases h
    next dst bs2 hdst =>
    split at h
    next => cases h
    next len bs3 hlen =>
    split at h
    next => cases h
    next data rest' hdata =>
    cases h
    obtain ⟨hs, rfl⟩ := (takeLe_eq_some_iff _ _ _ _).mp hsrc
    obtain ⟨hd, rfl⟩ := (takeLe_eq_some_iff _ _ _ _).mp hdst
    obtain ⟨hl, rfl⟩ := (takeLe_eq_some_iff _ _ _ _).mp hlen
    obtain ⟨rfl, rfl⟩ := (takeBytes_eq_some_iff _ _ _ _).mp hdata
    refine ⟨_, (fits_iff _).mpr ⟨rfl, hl⟩, rfl, ?_⟩
    simp only [encodeMessage, toNat_ofNat_of_lt_bytes hs, toNat_ofNat_of_lt_bytes hd, List.append_assoc]
  · rintro ⟨m, hfits, rfl, rfl⟩
    obtain ⟨hexact, hlen⟩ := (fits_iff m).mp hfits
    have hsrc := fun tail => (takeLe_eq_some_iff 4 m.src.toNat _ tail).mpr ⟨m.src.isLt, rfl⟩
    have hdst := fun tail => (takeLe_eq_some_iff 4 m.dst.toNat _ tail).mpr ⟨m.dst.isLt, rfl⟩
    have hlen := fun tail => (takeLe_eq_some_iff 2 m.len _ tail).mpr ⟨hlen, rfl⟩
    have hdata := (takeBytes_eq_some_iff m.len m.data _ rest).mpr ⟨hexact.symm, rfl⟩
    simp only [decodeMessage, encodeMessage, List.append_assoc, hsrc, hdst, hlen, hdata, BitVec.ofNat_toNat,
      BitVec.setWidth_eq]

/-! ## Byte 0 -/

/-- R71: a word decodes to an action only if it is the action's own. -/
theorem eq_word_of_decodeAct {w : BitVec 5} {a : Act} (h : decodeAct w = some a) : w = a.word := by
  have hw := actWord_toNat w
  apply BitVec.eq_of_toNat_eq
  unfold decodeAct at h
  split at h <;> cases h <;> simp_all [Act.word]

/-- A byte with bits [7:5] zero is the zero extension of its low five bits. -/
theorem setWidth_setWidth_of_lt (b : Byte) (h : b.toNat < 32) : (b.setWidth 5).setWidth 8 = b := by
  apply BitVec.eq_of_toNat_eq
  rw [BitVec.toNat_setWidth, BitVec.toNat_setWidth]
  omega

/-- A record whose byte 0 is an action's own is read by that action's operands (R73). -/
theorem decode_byte_cons (a : Act) (bs : List Byte) : decode (a.byte :: bs) = decodeOperands a bs := by
  have hlow : a.byte.toNat < 32 := by cases a <;> decide
  have hword : a.byte.setWidth 5 = a.word := by cases a <;> rfl
  simp only [decode, if_pos hlow, hword, decodeAct_word]

/-- An accepted byte string begins with the byte 0 of an action, whose operands follow (R73). -/
theorem decode_eq_ok {bs rest : List Byte} {i : Instr} (h : decode bs = .ok (i, rest)) :
    ∃ a tail, bs = Act.byte a :: tail ∧ decodeOperands a tail = .ok (i, rest) := by
  unfold decode at h
  split at h
  next => cases h
  next b tail =>
  split at h
  next hlow =>
    split at h
    next => cases h
    next a ha =>
    refine ⟨a, tail, ?_, h⟩
    rw [Act.byte, ← eq_word_of_decodeAct ha, setWidth_setWidth_of_lt b hlow]
  next => cases h

/-! ## Records -/

/-- A SEND's record is its byte 0 and its message's bytes, and only a message that fits has one (R73, log 13). -/
theorem encodeSend_eq_some_iff (b : Byte) (m : Message) (bs : List Byte) :
    encodeSend b m = some bs ↔ m.fits = true ∧ bs = b :: encodeMessage m := by
  rw [encodeSend, Option.ite_none_right_eq_some, Option.some.injEq, eq_comm (a := bs)]

/-- Operands read back from an action's record are those of the action (R73). -/
theorem decode_encode {i : Instr} {bs : List Byte} (h : encode i = some bs) (rest : List Byte) :
    decode (bs ++ rest) = .ok (i, rest) := by
  cases i with
  | decStep delta | encStep delta =>
    cases h
    rw [List.cons_append, decode_byte_cons, decodeOperands, decodeDelta_eq_ok_iff]
    exact ⟨delta, rfl, rfl⟩
  | envSendDec m | envSendEnc m =>
    obtain ⟨hfits, rfl⟩ := (encodeSend_eq_some_iff _ _ _).mp h
    rw [List.cons_append, decode_byte_cons, decodeOperands, decodeMessage_eq_ok_iff]
    exact ⟨m, hfits, rfl, rfl⟩
  | envPinDec level =>
    cases h
    rw [List.cons_append, decode_byte_cons, decodeOperands, decodeLevel_eq_ok_iff]
    exact ⟨level, rfl, rfl⟩
  | envResetDec | envReadyDec | envKickDec | envRecvDec | envResetEnc | envReadyEnc | envKickEnc =>
    cases h
    rw [List.cons_append, decode_byte_cons]
    rfl
  | _ => cases h  -- a selector row has no record

/-- The bytes an action's operands are read from, with its byte 0 before them, are its record (R73). -/
theorem encode_of_decodeOperands {a : Act} {bs rest : List Byte} {i : Instr}
    (h : decodeOperands a bs = .ok (i, rest)) : ∃ tail, encode i = some (a.byte :: tail) ∧ bs = tail ++ rest := by
  cases a with
  | decStep | encStep =>
    obtain ⟨delta, rfl, rfl⟩ := (decodeDelta_eq_ok_iff _ _ _ _ _).mp h
    exact ⟨_, rfl, rfl⟩
  | envSendDec | envSendEnc =>
    obtain ⟨m, hfits, rfl, rfl⟩ := (decodeMessage_eq_ok_iff _ _ _ _ _).mp h
    exact ⟨_, (encodeSend_eq_some_iff _ _ _).mpr ⟨hfits, rfl⟩, rfl⟩
  | envPinDec =>
    obtain ⟨level, rfl, rfl⟩ := (decodeLevel_eq_ok_iff _ _ _).mp h
    exact ⟨[level], rfl, rfl⟩
  | envResetDec | envReadyDec | envKickDec | envRecvDec | envResetEnc | envReadyEnc | envKickEnc =>
    cases h
    exact ⟨[], rfl, rfl⟩

/-- Settles O1: byte 0 of a record names its action, and each operand format reads its own bytes back. -/
theorem decodeReadsEncodedRecord : Obligations.DecodeReadsEncodedRecord := by
  intro i bs rest _ h
  exact decode_encode h rest

/-- Settles O2: byte 0 of an accepted string is an action's own, and the bytes after it are its operands'. -/
theorem decodedBytesAreTheRecord : Obligations.DecodedBytesAreTheRecord := by
  intro bs rest i h
  obtain ⟨a, tail, rfl, hoperands⟩ := decode_eq_ok h
  obtain ⟨operands, hencode, rfl⟩ := encode_of_decodeOperands hoperands
  exact ⟨by rw [Instr.encodable, hencode, Option.isSome_some], _, hencode, rfl⟩

/-- Settles O4: the records are those of actions written out, and the two rejected bytes are a reserved word and one
with high bits. -/
theorem writtenRecordsDecode : Obligations.WrittenRecordsDecode := by
  refine ⟨?_, ?_, ?_, ?_, ?_, ?_⟩ <;> decide

end Sys2Proof

/-!
PROOF. The rows run alone (40_cycle_counter.md R102, R104; 41_decoder.md R126 to R132; 42_encoder.md R155 to R160), and
the arithmetic and frame facts their statements are written in (00_scope.md R10, 20_memory.md R52).
-/

namespace Sys2Proof
open Machine

/-! ## Saturation and channels -/

/-- Settles O6: a saturated value is the lesser of the integer's natural part and CYC_MAX. -/
theorem satWSaturatesAtBothEnds : Obligations.SatWSaturatesAtBothEnds := by
  intro x
  rw [satW_toNat, cycMax]
  omega

/-- Settles O7: the channel written reads the value, and any other reads as before. -/
theorem channelWriteChangesOneChannel : Obligations.ChannelWriteChangesOneChannel := by
  intro f i j v hi _
  by_cases hj : j = i
  · rw [if_pos hj, hj, channel_setChannel_same f i v hi]
  · rw [if_neg hj, channel_setChannel_other f i j v (Ne.symm hj)]

/-- At a channel's index a write is the vector's own. -/
theorem setChannel_eq_set (f : Frame) (i : Nat) (v : Chan) (h : i < 12) : setChannel f i v = f.set i v h := by
  apply Vector.ext
  intro j hj
  rw [setChannel, Vector.getElem_setIfInBounds, Vector.getElem_set]

/-- The stored value of R129 and R130, with the bounds as numerals. -/
theorem chanValue_eq (p : Params) (e : Cyc) :
    chanValue p e = BitVec.ofNat 16 (min (max (e.toNat / p.cpu + 300) 1000) 2000) := rfl

theorem idx_add_one (i : BitVec 4) : i + 1#4 = BitVec.ofNat 4 (i.toNat + 1) := by
  rw [BitVec.ofNat_add, BitVec.ofNat_toNat, BitVec.setWidth_eq]

/-! ## The counter's rows -/

theorem exec_ctrResetTick_dec (s : State) (delta : Cyc) :
    exec (.ctrResetTick .dec delta) s = .next (s.withDec { s.dec with cyc := resetTickValue delta }) := rfl

theorem exec_ctrResetTick_enc (s : State) (delta : Cyc) :
    exec (.ctrResetTick .enc delta) s = .next (s.withEnc { s.enc with cyc := resetTickValue delta }) := rfl

/-- Settles O12: the reads are the rows themselves, and satW(0 + Δ) is Δ. -/
theorem ctrReadAndResetTick : Obligations.CtrReadAndResetTick := by
  refine ⟨rfl, fun s delta => ⟨rfl, rfl, ?_, ?_⟩⟩
  · rw [exec_ctrResetTick_dec, resetTickValue_eq]
  · rw [exec_ctrResetTick_enc, resetTickValue_eq]

/-! ## The decoder's rows -/

/-- Settles O13: the pseudocode of each of these rows is `skip`. -/
theorem skipRowsChangeNothing : Obligations.SkipRowsChangeNothing :=
  fun _ _ => ⟨rfl, rfl, rfl, rfl, rfl, rfl⟩

/-- Settles O14: each row is the request for the counter reset with its own write. -/
theorem decoderEdgeRows : Obligations.DecoderEdgeRows := fun _ => ⟨rfl, rfl, rfl⟩

theorem exec_decRiseChan (s : State) : exec .decRiseChan s = liftDec s (decRiseChan Config.params s.dec) := rfl

/-- DEC_RISE_CHAN with a channel at the index (R129). -/
theorem decRiseChan_of_idx_lt (p : Params) (d : DecState) (h : d.idx.toNat < 12) :
    decRiseChan p d = .ok { d with
      frame := setChannel d.frame d.idx.toNat (chanValue p d.vars.e)
      idx := BitVec.ofNat 4 (d.idx.toNat + 1)
      vars := { d.vars with rst := true } } := by
  rw [decRiseChan, if_pos h, idx_add_one, decRequestReset]

/-- Settles O15: the index is a channel's, so the row stores there. -/
theorem decRiseChanRowStores : Obligations.DecRiseChanRowStores := by
  intro s h
  rw [exec_decRiseChan, decRiseChan_of_idx_lt _ _ h, setChannel_eq_set _ _ _ h, chanValue_eq]
  rfl

/-! ## The encoder's rows -/

theorem pulseC_cast (p : Params) : (p.pulseC : Int) = 300 * (p.cpu : Int) := Nat.cast_mul 300 p.cpu

theorem frameC_cast (p : Params) : (p.frameC : Int) = 22500 * (p.cpu : Int) := Nat.cast_mul 22500 p.cpu

/-- The pulse's deadline (R156) with PULSE_C as a numeral. -/
theorem pulseDeadline_eq (p : Params) (o : Int) : pulseDeadline p o = satW (300 * (p.cpu : Int) - o) := by
  rw [pulseDeadline, pulseC_cast]

/-- The rest's deadline (R157, R158, R162) with the clamp's bounds and PULSE_C as numerals. -/
theorem restDeadline_eq (p : Params) (v : Chan) (o : Int) :
    restDeadline p v o =
      satW ((min (max v.toNat 1000) 2000 : Nat) * (p.cpu : Int) - 300 * (p.cpu : Int) - o) := by
  rw [restDeadline, pulseC_cast, clamp_eq_min_max]

/-- The padding's deadline (R159) from a saturated sum, with FRAME_C as a numeral. -/
theorem padDeadline_satW (p : Params) (a : Nat) (o : Int) :
    padDeadline p (satW a) o = satW (22500 * (p.cpu : Int) - (min a 4294967295 : Nat) - o) := by
  rw [padDeadline, frameC_cast, satW_toNat, Int.toNat_natCast, cycMax]

theorem exec_encRise (s : State) : exec .encRise s = .next (s.withEnc (encRise Config.params s.enc)) := rfl

theorem exec_encFallFirst (s : State) :
    exec .encFallFirst s = .next (s.withEnc (encFallFirst Config.params s.enc)) := rfl

theorem exec_encFallChan (s : State) : exec .encFallChan s = liftEnc s (encFallChan Config.params s.enc) := rfl

theorem exec_encFallPad (s : State) : exec .encFallPad s = .next (s.withEnc (encFallPad Config.params s.enc)) := rfl

/-- ENC_RISE with its values in numerals (R156, R160). -/
theorem encRise_eq (p : Params) (u : EncState) :
    encRise p u = { u with
      level := !u.level
      acc := satW (u.acc.toNat + u.vars.e.toNat)
      deadline := satW (300 * (p.cpu : Int) - ((u.vars.e.toNat : Int) - u.deadline.toNat))
      vars := { u.vars with rst := true } } := by
  rw [encRise, pulseDeadline_eq, overshoot, encHit]

/-- ENC_FALL_FIRST with its values in numerals (R157, R160). -/
theorem encFallFirst_eq (p : Params) (u : EncState) :
    encFallFirst p u = { u with
      level := !u.level
      acc := u.vars.e
      deadline := satW ((min (max u.frame[0].toNat 1000) 2000 : Nat) * (p.cpu : Int) - 300 * (p.cpu : Int)
        - ((u.vars.e.toNat : Int) - u.deadline.toNat))
      idx := 1#4
      vars := { u.vars with rst := true } } := by
  rw [encFallFirst, restDeadline_eq, overshoot, encHit]

/-- ENC_FALL_CHAN with a channel at the index, its values in numerals (R158, R160). -/
theorem encFallChan_of_idx_lt (p : Params) (u : EncState) (h : u.idx.toNat < 12) :
    encFallChan p u = .ok { u with
      level := !u.level
      acc := satW (u.acc.toNat + u.vars.e.toNat)
      deadline := satW ((min (max u.frame[u.idx.toNat].toNat 1000) 2000 : Nat) * (p.cpu : Int)
        - 300 * (p.cpu : Int) - ((u.vars.e.toNat : Int) - u.deadline.toNat))
      idx := BitVec.ofNat 4 (u.idx.toNat + 1)
      vars := { u.vars with rst := true } } := by
  rw [encFallChan, channel_eq_some _ _ h]
  simp only [restDeadline_eq, overshoot, encHit, idx_add_one]

/-- ENC_FALL_PAD with its values in numerals (R159, R160). -/
theorem encFallPad_eq (p : Params) (u : EncState) :
    encFallPad p u = { u with
      level := !u.level
      acc := satW (u.acc.toNat + u.vars.e.toNat)
      deadline := satW (22500 * (p.cpu : Int) - (min (u.acc.toNat + u.vars.e.toNat) 4294967295 : Nat)
        - ((u.vars.e.toNat : Int) - u.deadline.toNat))
      idx := 0#4
      vars := { u.vars with rst := true } } := by
  rw [encFallPad, overshoot, encHit, ← Nat.cast_add, padDeadline_satW]

/-- Settles O16: the row is the common part with the pulse's deadline. -/
theorem encRiseRow : Obligations.EncRiseRow := by
  intro s
  rw [exec_encRise, encRise_eq]

/-- Settles O17: the row is the common part with the seed and rest 0's deadline. -/
theorem encFallFirstRow : Obligations.EncFallFirstRow := by
  intro s
  rw [exec_encFallFirst, encFallFirst_eq]

/-- Settles O18: the index is a channel's, so the row schedules its rest. -/
theorem encFallChanRow : Obligations.EncFallChanRow := by
  intro s h
  rw [exec_encFallChan, encFallChan_of_idx_lt _ _ h, liftEnc]

/-- Settles O19: the row is the common part with the padding's deadline. -/
theorem encFallPadRow : Obligations.EncFallPadRow := by
  intro s
  rw [exec_encFallPad, encFallPad_eq]

end Sys2Proof

/-!
PROOF. The host's messages, refused operands and refused bytes, and the start of a run (43_bridge.md R193, R194, R197;
30_encoding.md R72, R85, R86; 70_reset_and_hazards.md R232).
-/

namespace Sys2Proof
open Machine Safety

/-! ## SEND and RECV -/

theorem exec_envSendDec (s : State) (m : Message) :
    exec (.envSendDec m) s = .next (envSendDec Config.params m s) := rfl

theorem exec_envSendEnc (s : State) (m : Message) :
    exec (.envSendEnc m) s = .next (envSendEnc Config.params m s) := rfl

/-- The message check of R72 as its two conditions. -/
theorem msgOk_iff (p : Params) (m : Message) : msgOk p m = true ↔ m.len ≤ p.msgMax ∧ m.len = m.data.length := by
  rw [msgOk, msgExact, Bool.and_eq_true, decide_eq_true_eq, decide_eq_true_eq]

/-- A message in range goes to the tail of `dec.inq`, or has no move when it is full (R193, R87). -/
theorem envSendDec_of_msgOk (p : Params) (m : Message) (s : State) (h : msgOk p m = true) :
    envSendDec p m s =
      if s.dec.inq.length < p.qInCap then s.withDec { s.dec with inq := s.dec.inq ++ [m] } else s := by
  rw [envSendDec, if_pos h, pushIfRoom]
  by_cases hroom : s.dec.inq.length < p.qInCap
  · rw [if_pos hroom, if_pos hroom, push]
  · rw [if_neg hroom, if_neg hroom]

/-- A message in range goes to the tail of `enc.inq`, or has no move when it is full (R194, R87). -/
theorem envSendEnc_of_msgOk (p : Params) (m : Message) (s : State) (h : msgOk p m = true) :
    envSendEnc p m s =
      if s.enc.inq.length < p.qInCap then s.withEnc { s.enc with inq := s.enc.inq ++ [m] } else s := by
  rw [envSendEnc, if_pos h, pushIfRoom]
  by_cases hroom : s.enc.inq.length < p.qInCap
  · rw [if_pos hroom, if_pos hroom, push]
  · rw [if_neg hroom, if_neg hroom]

/-- Settles O25: a message in range passes its check, and room alone decides. -/
theorem sendAppendsOrHasNoMove : Obligations.SendAppendsOrHasNoMove := by
  intro s m hmax hexact
  have hok : msgOk Config.params m = true := (msgOk_iff _ _).mpr ⟨hmax, hexact⟩
  rw [exec_envSendDec, exec_envSendEnc, envSendDec_of_msgOk _ _ _ hok, envSendEnc_of_msgOk _ _ _ hok]
  exact ⟨rfl, rfl⟩

/-- Settles O26: the row is the case split on the queue. -/
theorem recvReturnsOldestReply : Obligations.RecvReturnsOldestReply := fun _ => rfl

/-! ## Operands out of range -/

theorem exec_decStep (s : State) (delta : Cyc) : exec (.decStep delta) s = decStep Config.params delta s := rfl

theorem exec_envPinDec (s : State) (level : Byte) : exec (.envPinDec level) s = .next (envPinDec level s) := rfl

theorem decStep_of_not_deltaOk (p : Params) (delta : Cyc) (s : State) (h : ¬ deltaOk p delta = true) :
    decStep p delta s = .next (markRefused s) := by
  rw [decStep, if_neg h]

theorem encStep_of_not_deltaOk (p : Params) (delta : Cyc) (s : State) (h : ¬ deltaOk p delta = true) :
    encStep p delta s = .next (markRefused s) := by
  rw [encStep, if_neg h]

theorem envPinDec_of_not_levelOk (level : Byte) (s : State) (h : ¬ levelOk level = true) :
    envPinDec level s = markRefused s := by
  rw [envPinDec, if_neg h]

theorem envSendDec_of_not_msgOk (p : Params) (m : Message) (s : State) (h : ¬ msgOk p m = true) :
    envSendDec p m s = markRefused s := by
  rw [envSendDec, if_neg h]

theorem envSendEnc_of_not_msgOk (p : Params) (m : Message) (s : State) (h : ¬ msgOk p m = true) :
    envSendEnc p m s = markRefused s := by
  rw [envSendEnc, if_neg h]

/-- The level check of R72 as a bound. -/
theorem levelOk_iff (level : Byte) : levelOk level = true ↔ level.toNat < 2 := by
  rw [levelOk, Bool.or_eq_true, decide_eq_true_eq, decide_eq_true_eq, BitVec.toNat_eq, BitVec.toNat_eq,
    BitVec.toNat_ofNat, BitVec.toNat_ofNat]
  omega

/-- Settles O41: each operand fails its check of R72, and a failed check leaves only the mark. -/
theorem outOfRangeOperandIsRefused : Obligations.OutOfRangeOperandIsRefused := by
  intro s delta level m
  refine ⟨fun h => ?_, fun h => ?_, fun h => ?_⟩
  · have hbad : ¬ deltaOk Config.params delta = true := by
      rw [deltaOk_iff]
      omega
    rw [exec_decStep, exec_encStep, decStep_of_not_deltaOk _ _ _ hbad, encStep_of_not_deltaOk _ _ _ hbad]
    exact ⟨rfl, rfl⟩
  · have hbad : ¬ levelOk level = true := by
      rw [levelOk_iff]
      omega
    rw [exec_envPinDec, envPinDec_of_not_levelOk _ _ hbad]
    rfl
  · have hbad : ¬ msgOk Config.params m = true := by
      rw [msgOk_iff]
      omega
    rw [exec_envSendDec, exec_envSendEnc, envSendDec_of_not_msgOk _ _ _ hbad, envSendEnc_of_not_msgOk _ _ _ hbad]
    exact ⟨rfl, rfl⟩

/-! ## The next record -/

theorem step_of_decode_ok {s : State} {i : Instr} {rest : List Byte} (h : decode s.script = .ok (i, rest)) :
    step s = exec i (s.withScript rest) := by
  simp only [step, fetch, h]

/-- Bytes that are no record leave only the mark and the bytes after them (R86, log 6). -/
theorem step_of_decode_error {s : State} {r : Reject} (h : decode s.script = .error r) (hne : r ≠ .empty) :
    step s = .next (markRefused (s.withScript (r.rest s.script))) := by
  cases r with
  | empty => exact absurd rfl hne
  | highBits b | reserved w | truncated a => simp only [step, fetch, h]

/-- Settles O42: the fetch of a record is its decoding. -/
theorem stepPerformsNextRecord : Obligations.StepPerformsNextRecord := by
  intro s i rest h
  rw [step_of_decode_ok h, State.withScript]

theorem decode_of_highBits (b : Byte) (rest : List Byte) (h : 32 ≤ b.toNat) :
    decode (b :: rest) = .error (.highBits b) := by
  rw [decode, if_neg (Nat.not_lt.mpr h)]

theorem decode_of_reserved (b : Byte) (rest : List Byte) (hlow : b.toNat < 32)
    (h : decodeAct (b.setWidth 5) = none) : decode (b :: rest) = .error (.reserved (b.setWidth 5)) := by
  rw [decode, if_pos hlow, h]

/-- Settles O43: of either kind of bad byte 0 one byte is passed over. -/
theorem stepRefusesReservedByte : Obligations.StepRefusesReservedByte := by
  intro s b rest hscript hbad
  by_cases hhigh : 32 ≤ b.toNat
  · have hdecode := decode_of_highBits b rest hhigh
    rw [← hscript] at hdecode
    rw [step_of_decode_error hdecode (by simp), hscript]
    rfl
  · have hdecode := decode_of_reserved b rest (by omega) (hbad.resolve_left hhigh)
    rw [← hscript] at hdecode
    rw [step_of_decode_error hdecode (by simp), hscript]
    rfl

/-! ## The start of a run -/

/-- Settles O31: each reset puts its own unit's reset values in place and leaves the other unit. -/
theorem runStartsFromBothResets : Obligations.RunStartsFromBothResets := by
  intro s t u hdec henc
  cases hdec
  cases henc
  exact ⟨rfl, rfl, rfl, rfl, rfl⟩

/-- Every channel of the reset frame is 1000 (R45), so in range. -/
theorem frameInRange_reset : FrameInRange Frame.reset := by
  intro v hv
  rw [frameReset_eq_replicate, Vector.toList_replicate] at hv
  rw [List.eq_of_mem_replicate hv]
  decide

theorem decInvariant_reset (p : Params) : DecInvariant p DecState.reset :=
  ⟨Nat.zero_le _, frameInRange_reset, Nat.zero_le _, Nat.zero_le _, Nat.zero_le _, fun _ => rfl,
    fun _ hm => absurd hm List.not_mem_nil⟩

theorem encInvariant_reset (p : Params) : EncInvariant p EncState.reset :=
  ⟨Nat.zero_le _, Nat.zero_le _, Nat.zero_le _, Nat.zero_le _, Nat.zero_le _, fun _ => rfl⟩

/-- Settles O47: the reset values of each unit meet its items of R44. -/
theorem resetMeetsInvariant : Obligations.ResetMeetsInvariant :=
  ⟨decInvariant_reset Config.params, encInvariant_reset Config.params⟩

end Sys2Proof

/-!
PROOF. DEC_STEP in RUN mode (41_decoder.md R121 to R135): its timing part in closed form, and then its bridge part.
-/

namespace Sys2Proof
open Machine

/-- The index after the wrap at loop entry (R123). -/
def wrappedIdx (d : DecState) : Nat := if 12 ≤ d.idx.toNat then 0 else d.idx.toNat

theorem wrappedIdx_lt (d : DecState) : wrappedIdx d < 12 := by
  unfold wrappedIdx
  split <;> omega

theorem wrappedIdx_of_lt {d : DecState} (h : d.idx.toNat < 12) : wrappedIdx d = d.idx.toNat :=
  if_neg (Nat.not_le.mpr h)

/-- What a RUN step leaves of the decoder before its bridge part, in all six cases (R123 to R133, R135). -/
def decTimed (p : Params) (cur : Bool) (delta : Cyc) (d : DecState) : DecState :=
  { d with
    malformed := decide (d.last = true ∧ cur = false ∧ d.cyc.toNat > 320 * p.cpu)
    last := cur
    idx := if d.last = false ∧ cur = true
      then (if d.cyc.toNat > 1720 * p.cpu then 0#4 else BitVec.ofNat 4 (wrappedIdx d + 1))
      else BitVec.ofNat 4 (wrappedIdx d)
    frame := if (d.last = false ∧ cur = true) ∧ ¬ d.cyc.toNat > 1720 * p.cpu
      then setChannel d.frame (wrappedIdx d) (BitVec.ofNat 16 (min (max (d.cyc.toNat / p.cpu + 300) 1000) 2000))
      else d.frame
    cyc := if d.last = cur then BitVec.ofNat 32 (min (d.cyc.toNat + delta.toNat) 4294967295) else delta
    vars := StepVars.rest }

theorem maxGapC_eq (p : Params) : p.maxGapC = 1720 * p.cpu := rfl

theorem maxPulseC_eq (p : Params) : p.maxPulseC = 320 * p.cpu := rfl

theorem decEnter_eq_wrappedIdx (d : DecState) :
    decEnter d = { d with idx := BitVec.ofNat 4 (wrappedIdx d), vars := { e := d.cyc, rst := false } } := by
  rw [decEnter_eq, wrappedIdx]
  split
  · rfl
  · rw [BitVec.ofNat_toNat, BitVec.setWidth_eq]

/-- DEC_RISE_CHAN in a step: the wrapped index is a channel, so the case stores there (R123, R129). -/
theorem decRiseChan_decEnter (p : Params) (d : DecState) :
    decRiseChan p (decEnter d) = .ok { d with
      frame := setChannel d.frame (wrappedIdx d) (chanValue p d.cyc)
      idx := BitVec.ofNat 4 (wrappedIdx d + 1)
      vars := { e := d.cyc, rst := true } } := by
  have hlt := wrappedIdx_lt d
  have htoNat : (BitVec.ofNat 4 (wrappedIdx d)).toNat = wrappedIdx d := by
    rw [BitVec.toNat_ofNat]
    omega
  rw [decRiseChan_of_idx_lt _ _ (decEnter_idx_lt d)]
  simp only [decEnter_eq_wrappedIdx, htoNat]

/-- The counter part neither reads nor writes what the bridge part does, so the bridge may come last (R134, R135). -/
theorem decLeave_eq (p : Params) (cur : Bool) (delta : Cyc) (d : DecState) :
    decLeave p cur delta d = bridgeDec p { d with
      last := cur
      cyc := if d.vars.rst then delta else tickValue d.cyc delta
      vars := StepVars.rest } := by
  simp only [decLeave, bridgeDec_eq, decBridgeService_eq]
  cases d.kick <;> cases hrst : d.vars.rst <;>
    simp [decCounterPart, hrst, decCtrResetTick, decCtrTick, decClearVars, resetTickValue_eq]

/-- DEC_STEP in RUN is its timing part and then its bridge part, whatever the case (R121, R134). -/
theorem decStepUnit_of_run (p : Params) (cur : Bool) (delta : Cyc) (d : DecState) (h : d.mode = .run) :
    decStepUnit p cur delta d = .ok (bridgeDec p (decTimed p cur delta d)) := by
  have he : (decEnter (decClearEvent d)).vars.e = d.cyc := by rw [decEnter_eq]; rfl
  have hl : (decEnter (decClearEvent d)).last = d.last := by rw [decEnter_eq]; rfl
  rw [decStepUnit, h]
  simp only [decRun]
  cases hlast : d.last <;> cases cur
  case false.false =>  -- idle LOW
    rw [decSelect_low _ _ (hl.trans hlast)]
    simp [decTake, decIdleLow, decLeave_eq, decEnter_eq_wrappedIdx, decTimed, hlast, decClearEvent, wrappedIdx,
      tickValue_eq_ofNat_min]
  case true.true =>  -- idle HIGH
    rw [decSelect_high _ _ (hl.trans hlast)]
    simp [decTake, decIdleHigh, decLeave_eq, decEnter_eq_wrappedIdx, decTimed, hlast, decClearEvent, wrappedIdx,
      tickValue_eq_ofNat_min]
  case false.true =>  -- a rise
    rw [decSelect_rise _ _ (hl.trans hlast), he, maxGapC_eq]
    by_cases hgap : d.cyc.toNat > 1720 * p.cpu
    · simp [hgap, decTake, decRiseGap, decRequestReset, decLeave_eq, decEnter_eq_wrappedIdx, decTimed, hlast,
        decClearEvent]
    · simp [hgap, decTake, decRiseChan_decEnter, decLeave_eq, decTimed, hlast, decClearEvent, wrappedIdx,
        chanValue_eq]
  case true.false =>  -- a fall
    rw [decSelect_fall _ _ (hl.trans hlast), he, maxPulseC_eq]
    by_cases hlong : d.cyc.toNat > 320 * p.cpu
    · simp [hlong, decTake, decFallLong, decRequestReset, decLeave_eq, decEnter_eq_wrappedIdx, decTimed, hlast,
        decClearEvent, wrappedIdx]
    · simp [hlong, decTake, decFallOk, decRequestReset, decLeave_eq, decEnter_eq_wrappedIdx, decTimed, hlast,
        decClearEvent, wrappedIdx]

theorem deltaOk_of_bounds {delta : Cyc} (hpos : 1 ≤ delta.toNat) (hmax : delta.toNat ≤ Config.params.latMax) :
    deltaOk Config.params delta = true := (deltaOk_iff _ _).mpr ⟨hpos, hmax⟩

/-- DEC_STEP in RUN on the whole state (R121). -/
theorem exec_decStep_of_run (s : State) (delta : Cyc) (hdelta : deltaOk Config.params delta = true)
    (hrun : s.dec.mode = .run) :
    exec (.decStep delta) s =
      .next (s.withDec (bridgeDec Config.params (decTimed Config.params s.pinIn delta s.dec))) := by
  rw [exec_decStep_of_deltaOk s delta hdelta, decStepUnit_of_run _ _ _ _ hrun, liftDec]

theorem bridgeDec_of_not_kick (p : Params) (d : DecState) (h : d.kick = false) : bridgeDec p d = d := by
  rw [bridgeDec_eq, h, if_neg Bool.false_ne_true]

theorem bridgeDec_of_kick (p : Params) (d : DecState) (h : d.kick = true) : bridgeDec p d = decBridgeService p d := by
  rw [bridgeDec_eq, if_pos h]

/-- With no signal the step is its timing part alone (R183). -/
theorem exec_decStep_of_not_kick (s : State) (delta : Cyc) (hdelta : deltaOk Config.params delta = true)
    (hrun : s.dec.mode = .run) (hkick : s.dec.kick = false) :
    exec (.decStep delta) s = .next (s.withDec (decTimed Config.params s.pinIn delta s.dec)) := by
  rw [exec_decStep_of_run s delta hdelta hrun, bridgeDec_of_not_kick]
  exact hkick

/-- Settles O33: with no signal the step is its timing part, whose closed form is the statement. -/
theorem decStepTakesItsCase : Obligations.DecStepTakesItsCase := by
  intro s delta hpos hmax hrun hkick
  rw [exec_decStep_of_not_kick s delta (deltaOk_of_bounds hpos hmax) hrun hkick]
  rfl

/-- Settles O34: the timing part does not read the signal, so the two steps differ by the service alone. -/
theorem decStepServicesAfterTiming : Obligations.DecStepServicesAfterTiming := by
  intro s t delta hrun hkick hpos hmax h
  have hdelta := deltaOk_of_bounds hpos hmax
  rw [exec_decStep_of_not_kick (s.withDec { s.dec with kick := false }) delta hdelta hrun rfl] at h
  cases h
  rw [exec_decStep_of_run s delta hdelta hrun, bridgeDec_of_kick, decBridgeService_eq]
  · rfl
  · exact hkick

end Sys2Proof

/-!
PROOF. ENC_STEP in RUN mode (42_encoder.md R151 to R163): its cases with the signal clear, and the bridge part after
them.
-/

namespace Sys2Proof
open Machine

/-! ## The step's parts -/

theorem bridgeEnc_of_not_kick (p : Params) (u : EncState) (h : u.kick = false) : bridgeEnc p u = u := by
  rw [bridgeEnc_eq, h, if_neg Bool.false_ne_true]

theorem bridgeEnc_of_kick (p : Params) (u : EncState) (h : u.kick = true) : bridgeEnc p u = encBridgeService p u := by
  rw [bridgeEnc_eq, if_pos h]

/-- What the counter part and the end of the step leave (R105). -/
def encTicked (delta : Cyc) (u : EncState) : EncState :=
  { u with cyc := if u.vars.rst then delta else tickValue u.cyc delta, vars := StepVars.rest }

/-- The counter part neither reads nor writes what the bridge part does, so the bridge may come last (R105, R163). -/
theorem encLeave_eq (p : Params) (delta : Cyc) (u : EncState) :
    encLeave p delta u = bridgeEnc p (encTicked delta u) := by
  simp only [encLeave, encTicked, bridgeEnc_eq, encBridgeService_eq]
  cases hkick : u.kick <;> cases hrst : u.vars.rst <;>
    simp [encCounterPart, hkick, hrst, encCtrResetTick, encCtrTick, encClearVars, resetTickValue_eq]

/-- A case changes only the timing registers and the step variables (R155 to R160). -/
theorem encTake_keeps {p : Params} {c : EncCase} {u v : EncState} (h : encTake p c u = .ok v) :
    v.mode = u.mode ∧ v.ready = u.ready ∧ v.cyc = u.cyc ∧ v.kick = u.kick ∧ v.inq = u.inq ∧ v.frame = u.frame := by
  cases c with
  | wait | rise | fallFirst | fallPad =>
    cases h
    exact ⟨rfl, rfl, rfl, rfl, rfl, rfl⟩
  | fallChan =>
    rw [encTake, encFallChan] at h
    split at h
    · cases h
      exact ⟨rfl, rfl, rfl, rfl, rfl, rfl⟩
    · cases h

/-- A case does not read the signal (R155 to R160). -/
theorem encTake_withKick {p : Params} {c : EncCase} {u v : EncState} (kick : Bool) (h : encTake p c u = .ok v) :
    encTake p c { u with kick := kick } = .ok { v with kick := kick } := by
  cases c with
  | wait | rise | fallFirst | fallPad =>
    cases h
    rfl
  | fallChan =>
    simp only [encTake, encFallChan] at h ⊢
    split at h
    · cases h
      rfl
    · cases h

/-- ENC_STEP in RUN is the selected case and the parts after it (R151). -/
theorem encStep_of_take {p : Params} {delta : Cyc} {s : State} {c : EncCase} {u : EncState}
    (hdelta : deltaOk p delta = true) (hrun : s.enc.mode = .run) (hselect : encSelect (encEnter s.enc) = some c)
    (htake : encTake p c (encEnter s.enc) = .ok u) :
    encStep p delta s = .next (s.withEnc (encLeave p delta u)) := by
  simp only [encStep, if_pos hdelta, hrun, hselect, encRun, htake, liftEnc]

/-- With no signal the step is the selected case and the counter part (R188). -/
theorem encStep_of_take_of_not_kick {p : Params} {delta : Cyc} {s : State} {c : EncCase} {u : EncState}
    (hdelta : deltaOk p delta = true) (hrun : s.enc.mode = .run) (hkick : s.enc.kick = false)
    (hselect : encSelect (encEnter s.enc) = some c) (htake : encTake p c (encEnter s.enc) = .ok u) :
    encStep p delta s = .next (s.withEnc (encTicked delta u)) := by
  obtain ⟨-, -, -, hkept, -, -⟩ := encTake_keeps htake
  rw [encStep_of_take hdelta hrun hselect htake, encLeave_eq, bridgeEnc_of_not_kick]
  exact hkept.trans hkick

/-! ## The cases -/

/-- Settles O36: before the deadline the case is ENC_WAIT, and the counter part ticks. -/
theorem encStepWaitsBeforeDeadline : Obligations.EncStepWaitsBeforeDeadline := by
  intro s delta hpos hmax hrun hkick hbefore
  rw [exec_encStep, encStep_of_take_of_not_kick (deltaOk_of_bounds hpos hmax) hrun hkick
    (encSelect_wait _ hbefore) rfl, ← tickValue_eq_ofNat_min]
  rfl

/-- Settles O37: at a hit with the pin LOW the case is ENC_RISE, whatever the index. -/
theorem encStepRaisesPin : Obligations.EncStepRaisesPin := by
  intro s delta hpos hmax hrun hkick hhit hlevel
  rw [exec_encStep, encStep_of_take_of_not_kick (deltaOk_of_bounds hpos hmax) hrun hkick
    (encSelect_rise _ hhit hlevel) rfl, encRise_eq]
  simp [encTicked, encEnter_eq, hlevel, stepVarsRest_eq]

/-- At a hit with the pin HIGH and the index at 0 the case is ENC_FALL_FIRST (R157). -/
theorem encSelect_fallFirst {u : EncState} (hhit : u.deadline.toNat ≤ u.vars.e.toNat) (hlevel : u.level = true)
    (hidx : u.idx.toNat = 0) : encSelect u = some .fallFirst := by
  rw [encSelect_fall u hhit hlevel, if_neg (by omega), if_pos hidx]

/-- At a hit with the pin HIGH and the index at another channel the case is ENC_FALL_CHAN (R158). -/
theorem encSelect_fallChan {u : EncState} (hhit : u.deadline.toNat ≤ u.vars.e.toNat) (hlevel : u.level = true)
    (hpos : u.idx.toNat ≠ 0) (hlt : u.idx.toNat < 12) : encSelect u = some .fallChan := by
  rw [encSelect_fall u hhit hlevel, if_neg (by omega), if_neg hpos]

/-- At a hit with the pin HIGH and the index at 12 the case is ENC_FALL_PAD (R159). -/
theorem encSelect_fallPad {u : EncState} (hhit : u.deadline.toNat ≤ u.vars.e.toNat) (hlevel : u.level = true)
    (hidx : u.idx.toNat = 12) : encSelect u = some .fallPad := by
  rw [encSelect_fall u hhit hlevel, if_pos hidx]

/-- Settles O38: the case is ENC_FALL_FIRST at index 0, with the seed, and ENC_FALL_CHAN at the other channels. -/
theorem encStepSchedulesRest : Obligations.EncStepSchedulesRest := by
  intro s delta hidx hpos hmax hrun hkick hhit hlevel
  have hdelta := deltaOk_of_bounds hpos hmax
  rw [exec_encStep]
  by_cases hzero : s.enc.idx.toNat = 0
  · rw [encStep_of_take_of_not_kick hdelta hrun hkick (encSelect_fallFirst hhit hlevel hzero) rfl, encFallFirst_eq]
    simp [encTicked, encEnter_eq, hlevel, hzero, stepVarsRest_eq]
  · rw [encStep_of_take_of_not_kick hdelta hrun hkick (encSelect_fallChan hhit hlevel hzero hidx)
      (encFallChan_of_idx_lt _ (encEnter s.enc) hidx)]
    simp [encTicked, encEnter_eq, hlevel, hzero, stepVarsRest_eq]

/-- Settles O39: at index 12 the case is ENC_FALL_PAD. -/
theorem encStepSchedulesPadding : Obligations.EncStepSchedulesPadding := by
  intro s delta hpos hmax hrun hkick hhit hlevel hidx
  have hpad : s.enc.idx.toNat = 12 := by rw [hidx]; rfl
  rw [exec_encStep, encStep_of_take_of_not_kick (deltaOk_of_bounds hpos hmax) hrun hkick
    (encSelect_fallPad hhit hlevel hpad) rfl, encFallPad_eq]
  simp [encTicked, encEnter_eq, hlevel, stepVarsRest_eq]

/-! ## The bridge part -/

theorem exec_encBridgeService (s : State) :
    exec .encBridgeService s = .next (s.withEnc (encBridgeService Config.params s.enc)) := rfl

/-- Settles O40: the case does not read the signal and keeps queue and frame, so the service works on the old ones. -/
theorem encStepServicesAfterTiming : Obligations.EncStepServicesAfterTiming := by
  intro s t u delta hrun hkick hpos hmax hstep hservice
  have hdelta := deltaOk_of_bounds hpos hmax
  rw [exec_encBridgeService, encBridgeService_eq] at hservice
  cases hservice
  rw [exec_encStep] at hstep ⊢
  obtain ⟨hbad, -⟩ | ⟨-, hinit, -⟩ | ⟨-, -, c, v, hselect, htake, rfl⟩ := encStep_cases hstep
  · exact absurd hdelta (Bool.eq_false_iff.mp hbad)
  · exact absurd (hrun.symm.trans hinit) (by decide)
  · obtain ⟨-, -, -, hvkick, hvinq, hvframe⟩ := encTake_keeps htake
    have hsignalled : encTake Config.params c (encEnter s.enc) = .ok { v with kick := true } := by
      rw [← encTake_withKick true htake, encEnter_eq, encEnter_eq, State.withEnc_enc, ← hkick]
    simp only [encEnter_eq, State.withEnc_enc] at hvkick hvinq hvframe
    rw [encStep_of_take hdelta hrun hselect hsignalled, encLeave_eq, encLeave_eq, bridgeEnc_of_kick _ _ rfl,
      bridgeEnc_of_not_kick _ (encTicked delta v) hvkick, encBridgeService_eq]
    simp [encTicked, hvkick, hvinq, hvframe]

end Sys2Proof

/-!
PROOF. The frame an encoder service leaves (43_bridge.md R189 to R192, R200), message by message.
-/

namespace Sys2Proof
open Machine

theorem drainedFrame_append (p : Params) (f : Frame) (before after : List Message) :
    drainedFrame p f (before ++ after) = drainedFrame p (drainedFrame p f before) after := List.foldl_append

/-- An accepted message applies its bytes, and a rejected one none (R190, R191). -/
theorem drainedFrame_singleton (p : Params) (f : Frame) (m : Message) :
    drainedFrame p f [m] = if accept p m then setImageBytes f 0 (appliedBytes m) else f := rfl

theorem drainedFrame_cons (p : Params) (f : Frame) (m : Message) (after : List Message) :
    drainedFrame p f (m :: after) = drainedFrame p (drainedFrame p f [m]) after := rfl

/-- The messages of a queue that write image byte j: those accepted with more than j of the 24 bytes (R190, R192). -/
def covering (p : Params) (q : List Message) (j : Nat) : List Message :=
  q.filter fun m => accept p m && decide (j < min m.len 24)

theorem covering_append_singleton (p : Params) (q : List Message) (m : Message) (j : Nat) :
    covering p (q ++ [m]) j =
      if accept p m = true ∧ j < min m.len 24 then covering p q j ++ [m] else covering p q j := by
  simp only [covering, List.filter_append, List.filter_cons, List.filter_nil, Bool.and_eq_true, decide_eq_true_eq]
  split
  · rfl
  · rw [List.append_nil]

/-- Image byte j is byte j of the last message that writes it, and as before where none does. -/
theorem imageByte_drainedFrame (p : Params) (q : List Message) (f : Frame) (j : Nat)
    (h : ∀ m ∈ q, m.len = m.data.length) :
    imageByte (drainedFrame p f q) j =
      match (covering p q j).getLast? with
      | some m => m.data[j]?
      | none => imageByte f j := by
  induction q using List.reverseRecOn with
  | nil => rfl
  | append_singleton q m ih =>
    have hexact : m.len = m.data.length := h m (by simp)
    have hqueue := ih fun x hx => h x (by simp [hx])
    rw [drainedFrame_append, drainedFrame_singleton]
    rw [covering_append_singleton]
    by_cases haccept : accept p m = true
    · rw [if_pos haccept, imageByte_setImageBytes_appliedBytes _ _ _ hexact]
      by_cases hj : j < min m.len 24
      · rw [if_pos hj, if_pos ⟨haccept, hj⟩, List.getLast?_concat]
      · rw [if_neg hj, if_neg fun h => hj h.2, hqueue]
    · rw [if_neg haccept, if_neg fun h => haccept h.1, hqueue]

/-- Settles O23: the frame is the fold over the queue, and its bytes are known one by one. -/
theorem encBridgeServiceDrains : Obligations.EncBridgeServiceDrains := by
  refine ⟨decodeBsel_word .encService, fun s => ⟨drainedFrame Config.params s.enc.frame s.enc.inq, ?_, rfl, ?_⟩⟩
  · rw [exec_encBridgeService, encBridgeService_eq]
  · exact fun hexact j => imageByte_drainedFrame _ _ _ j hexact

/-- A message of 24 bytes is accepted under both length policies (R192). -/
theorem accept_of_len_24 (p : Params) (m : Message) (h : m.len = 24) : accept p m = true := by
  unfold accept
  split
  · rfl
  · rw [h, decide_eq_true_eq]

/-- Applying a message of 24 bytes leaves nothing of the old frame (R190, R200). -/
theorem setImageBytes_appliedBytes_of_len_24 (f : Frame) (m : Message) (hlen : m.len = 24)
    (hdata : m.data.length = 24) : setImageBytes f 0 (appliedBytes m) = unpack m.data := by
  apply frame_ext_imageByte
  intro j
  rw [imageByte_setImageBytes_appliedBytes _ _ _ (hlen.trans hdata.symm), hlen]
  by_cases hj : j < 24
  · rw [if_pos (by omega), imageByte_unpack _ _ hj, List.getD_eq_getElem _ _ (by omega),
      List.getElem?_eq_getElem (by omega)]
  · rw [if_neg (by omega), imageByte_eq_none _ _ (by omega), imageByte_eq_none _ _ (by omega)]

theorem drainedFrame_of_rejected (p : Params) (f : Frame) (q : List Message) (h : ∀ m ∈ q, accept p m = false) :
    drainedFrame p f q = f := by
  induction q with
  | nil => rfl
  | cons m q ih =>
    rw [drainedFrame_cons, drainedFrame_singleton, h m List.mem_cons_self, if_neg Bool.false_ne_true]
    exact ih fun x hx => h x (List.mem_cons_of_mem m hx)

/-- R200: of the last accepted message with 24 bytes the whole frame is left. -/
theorem drainedFrame_of_last_len_24 (p : Params) (f : Frame) (before after : List Message) (m : Message)
    (hlen : m.len = 24) (hdata : m.data.length = 24) (hafter : ∀ x ∈ after, accept p x = false) :
    drainedFrame p f (before ++ m :: after) = unpack m.data := by
  rw [drainedFrame_append, drainedFrame_cons, drainedFrame_of_rejected _ _ _ hafter, drainedFrame_singleton,
    if_pos (accept_of_len_24 p m hlen), setImageBytes_appliedBytes_of_len_24 _ _ hlen hdata]

/-- Settles O24: the fold splits at the message, which overwrites what came before and is kept by what follows. -/
theorem encLastMessageWins : Obligations.EncLastMessageWins := by
  intro s before after m hqueue hlen hdata hafter
  rw [exec_encBridgeService, encBridgeService_eq, hqueue,
    drainedFrame_of_last_len_24 _ _ _ _ _ hlen hdata hafter]

end Sys2Proof

/-!
PROOF. What a row may write of the whole state, and when one stops (10_state.md R2, R20, R38; 30_encoding.md R86;
20_memory.md R52, R62).
-/

namespace Sys2Proof
open Machine Safety

/-! ## What a row writes -/

/-- The parts of the state that a row may write: its own unit, or the mark where its operand is out of range; beside
them ENV_PIN_DEC the pin, and ENV_RECV_DEC the messages returned. -/
inductive RowWrites (i : Instr) (s : State) : State → Prop where
  | refused (h : i.wf Config.params = false) : RowWrites i s (markRefused s)
  | dec (d : DecState) (h : unitOf i = .dec) : RowWrites i s (s.withDec d)
  | enc (u : EncState) (h : unitOf i = .enc) : RowWrites i s (s.withEnc u)
  | pin (level : Byte) (h : i = .envPinDec level) : RowWrites i s (s.withPin (levelBit level))
  | returned (d : DecState) (m : Message) (h : i = .envRecvDec) :
      RowWrites i s { s.withDec d with received := push s.received m }

theorem decStep_rowWrites {delta : Cyc} {s t : State} (h : decStep Config.params delta s = .next t) :
    RowWrites (.decStep delta) s t := by
  obtain ⟨hbad, rfl⟩ | ⟨-, -, rfl⟩ | ⟨-, -, d, -, rfl⟩ := decStep_cases h
  · exact .refused hbad
  · exact .dec _ rfl
  · exact .dec _ rfl

theorem encStep_rowWrites {delta : Cyc} {s t : State} (h : encStep Config.params delta s = .next t) :
    RowWrites (.encStep delta) s t := by
  obtain ⟨hbad, rfl⟩ | ⟨-, -, rfl⟩ | ⟨-, -, c, u, -, -, rfl⟩ := encStep_cases h
  · exact .refused hbad
  · exact .enc _ rfl
  · exact .enc _ rfl

theorem envSendDec_rowWrites (m : Message) (s : State) :
    RowWrites (.envSendDec m) s (envSendDec Config.params m s) := by
  by_cases hok : msgOk Config.params m = true
  · rw [envSendDec_of_msgOk _ _ _ hok]
    split
    · exact .dec _ rfl
    · exact .dec s.dec rfl
  · rw [envSendDec_of_not_msgOk _ _ _ hok]
    exact .refused (Bool.eq_false_iff.mpr hok)

theorem envSendEnc_rowWrites (m : Message) (s : State) :
    RowWrites (.envSendEnc m) s (envSendEnc Config.params m s) := by
  by_cases hok : msgOk Config.params m = true
  · rw [envSendEnc_of_msgOk _ _ _ hok]
    split
    · exact .enc _ rfl
    · exact .enc s.enc rfl
  · rw [envSendEnc_of_not_msgOk _ _ _ hok]
    exact .refused (Bool.eq_false_iff.mpr hok)

theorem envRecvDec_rowWrites (s : State) : RowWrites .envRecvDec s (envRecvDec s) := by
  unfold envRecvDec
  split
  · exact .dec s.dec rfl
  · exact .returned _ _ rfl

theorem envPinDec_rowWrites (level : Byte) (s : State) : RowWrites (.envPinDec level) s (envPinDec level s) := by
  unfold envPinDec
  split
  · exact .pin level rfl
  next hbad => exact .refused (Bool.eq_false_iff.mpr hbad)

theorem exec_rowWrites {i : Instr} {s t : State} (h : exec i s = .next t) : RowWrites i s t := by
  cases i with
  | decStep delta => exact decStep_rowWrites h
  | encStep delta => exact encStep_rowWrites h
  | envSendDec m => cases h; exact envSendDec_rowWrites m s
  | envSendEnc m => cases h; exact envSendEnc_rowWrites m s
  | envRecvDec => cases h; exact envRecvDec_rowWrites s
  | envPinDec level => cases h; exact envPinDec_rowWrites level s
  | decRiseChan =>
    obtain ⟨d, -, rfl⟩ := liftDec_next h
    exact .dec d rfl
  | encFallChan =>
    obtain ⟨u, -, rfl⟩ := liftEnc_next h
    exact .enc u rfl
  | envResetDec | envReadyDec | envKickDec | decIdleLow | decIdleHigh | decRiseGap | decFallOk | decFallLong
  | decBridgeIdle | decBridgeService | decMsgDiscard => cases h; exact .dec _ rfl
  | envResetEnc | envReadyEnc | envKickEnc | encWait | encRise | encFallFirst | encFallPad | encBridgeIdle
  | encBridgeService | encMsgApply | encMsgReject => cases h; exact .enc _ rfl
  | ctrTick unit | ctrRead unit | ctrResetTick unit =>
    cases unit with
    | dec => cases h; exact .dec _ rfl
    | enc => cases h; exact .enc _ rfl

/-- Settles O49: each part of the state is written only by the rows that may write it. -/
theorem rowsOfOneUnitLeaveTheOther : Obligations.RowsOfOneUnitLeaveTheOther := by
  intro i s t h
  cases exec_rowWrites h with
  | refused _ => exact ⟨fun _ => rfl, fun _ => rfl, fun _ => rfl, fun _ => rfl, rfl⟩
  | dec d hdec =>
    exact ⟨fun _ => rfl, fun henc => absurd (hdec.symm.trans henc) (by decide), fun _ => rfl, fun _ => rfl, rfl⟩
  | enc u henc =>
    exact ⟨fun hdec => absurd (henc.symm.trans hdec) (by decide), fun _ => rfl, fun _ => rfl, fun _ => rfl, rfl⟩
  | pin level hpin => exact ⟨fun _ => rfl, fun _ => rfl, fun hne => absurd hpin (hne level), fun _ => rfl, rfl⟩
  | returned d m hrecv =>
    subst hrecv
    exact ⟨fun _ => rfl, fun henc => (nomatch henc), fun _ => rfl, fun hne => absurd rfl hne, rfl⟩

/-- R20: a row of ENC leaves the decoder as it was. -/
theorem exec_dec_of_unitOf_enc {i : Instr} {s t : State} (hu : unitOf i = .enc) (h : exec i s = .next t) :
    t.dec = s.dec := by
  obtain ⟨-, hdec, -⟩ := rowsOfOneUnitLeaveTheOther i s t h
  exact hdec hu

/-- A row keeps the mark, and sets it only where its operand is out of range (R86). -/
theorem exec_refusalMark {i : Instr} {s t : State} (h : exec i s = .next t) :
    t.refusalMark = s.refusalMark ∨ t.refusalMark = true ∧ i.wf Config.params = false := by
  cases exec_rowWrites h with
  | refused hbad => exact .inr ⟨rfl, hbad⟩
  | dec | enc | pin | returned => exact .inl rfl

/-- Settles O51: a rejected record sets the mark, and a performed one only by its operand. -/
theorem refusalMarkLastsAndHasACause : Obligations.RefusalMarkLastsAndHasACause := by
  intro s t h
  obtain ⟨i, rest, hdecode, hexec⟩ | ⟨r, hdecode, -, rfl⟩ := step_cases h
  · obtain hkept | ⟨hset, hbad⟩ := exec_refusalMark hexec
    · exact ⟨fun hs => hkept.trans hs, fun hs ht => absurd (hs.symm.trans (hkept.symm.trans ht)) (by decide)⟩
    · exact ⟨fun _ => hset, fun _ _ => .inr ⟨i, rest, hdecode, hbad⟩⟩
  · exact ⟨fun _ => rfl, fun _ _ => .inl ⟨r, hdecode⟩⟩

/-! ## When a row stops -/

/-- A row completes, or stops for want of a channel. -/
def CompletesOrNoChannel (r : Result) : Prop := (∃ t, r = .next t) ∨ ∃ n, 12 ≤ n ∧ r = .fault (.noChannel n)

theorem decRiseChan_of_idx_ge (p : Params) (d : DecState) (h : 12 ≤ d.idx.toNat) :
    decRiseChan p d = .error (.noChannel d.idx.toNat) := by
  rw [decRiseChan, if_neg (Nat.not_lt.mpr h)]

theorem encFallChan_of_idx_ge (p : Params) (u : EncState) (h : 12 ≤ u.idx.toNat) :
    encFallChan p u = .error (.noChannel u.idx.toNat) := by
  rw [encFallChan, channel_eq_none _ _ h]

theorem exec_decRiseChan_stops (s : State) : CompletesOrNoChannel (exec .decRiseChan s) := by
  rw [exec_decRiseChan]
  by_cases h : s.dec.idx.toNat < 12
  · rw [decRiseChan_of_idx_lt _ _ h]
    exact .inl ⟨_, rfl⟩
  · rw [decRiseChan_of_idx_ge _ _ (Nat.le_of_not_lt h)]
    exact .inr ⟨_, Nat.le_of_not_lt h, rfl⟩

theorem exec_encFallChan_stops (s : State) : CompletesOrNoChannel (exec .encFallChan s) := by
  rw [exec_encFallChan]
  by_cases h : s.enc.idx.toNat < 12
  · rw [encFallChan_of_idx_lt _ _ h]
    exact .inl ⟨_, rfl⟩
  · rw [encFallChan_of_idx_ge _ _ (Nat.le_of_not_lt h)]
    exact .inr ⟨_, Nat.le_of_not_lt h, rfl⟩

/-- Of the cases of a step only ENC_FALL_CHAN looks for a channel (R155 to R159). -/
theorem encTake_stops (p : Params) (c : EncCase) (u : EncState) :
    (∃ v, encTake p c u = .ok v) ∨ 12 ≤ u.idx.toNat ∧ encTake p c u = .error (.noChannel u.idx.toNat) := by
  cases c with
  | wait | rise | fallFirst | fallPad => exact .inl ⟨_, rfl⟩
  | fallChan =>
    by_cases h : u.idx.toNat < 12
    · exact .inl ⟨_, encFallChan_of_idx_lt p u h⟩
    · exact .inr ⟨Nat.le_of_not_lt h, encFallChan_of_idx_ge p u (Nat.le_of_not_lt h)⟩

theorem encStep_stops (p : Params) (delta : Cyc) (s : State) : CompletesOrNoChannel (encStep p delta s) := by
  by_cases hdelta : deltaOk p delta = true
  · cases hmode : s.enc.mode with
    | init => exact .inl ⟨_, encStep_of_init p delta s hdelta hmode⟩
    | run =>
      obtain ⟨c, hselect⟩ := Option.isSome_iff_exists.mp (encSelect_isSome (encEnter s.enc))
      obtain ⟨v, htake⟩ | ⟨hidx, htake⟩ := encTake_stops p c (encEnter s.enc)
      · exact .inl ⟨_, encStep_of_take hdelta hmode hselect htake⟩
      · refine .inr ⟨_, hidx, ?_⟩
        simp only [encStep, if_pos hdelta, hmode, hselect, encRun, htake, liftEnc]
  · exact .inl ⟨_, encStep_of_not_deltaOk p delta s hdelta⟩

theorem exec_stops (i : Instr) (s : State) : CompletesOrNoChannel (exec i s) := by
  cases i with
  | decStep delta => exact .inl (decStep_next Config.params delta s)
  | encStep delta => exact encStep_stops Config.params delta s
  | decRiseChan => exact exec_decRiseChan_stops s
  | encFallChan => exact exec_encFallChan_stops s
  | ctrTick unit | ctrRead unit | ctrResetTick unit => cases unit <;> exact .inl ⟨_, rfl⟩
  | _ => exact .inl ⟨_, rfl⟩

/-- Settles O44: a row completes or finds no channel, and each of the two rows that look for one stops without it. -/
theorem instructionsStopOnlyOutsideChannels : Obligations.InstructionsStopOnlyOutsideChannels := by
  refine ⟨fun i s => ?_, fun s h => ?_, fun s h => ?_⟩
  · obtain ⟨t, hnext⟩ | ⟨n, hn, hfault⟩ := exec_stops i s
    · rw [hnext]
      exact ⟨fun _ => by simp, fun _ hf => (nomatch hf)⟩
    · rw [hfault]
      refine ⟨fun _ => by simp, fun f hf => ⟨n, hn, ?_⟩⟩
      cases hf
      rfl
  · rw [exec_decRiseChan, decRiseChan_of_idx_ge _ _ h, liftDec]
  · rw [exec_encFallChan, encFallChan_of_idx_ge _ _ h, liftEnc]

/-- An action of an agent completes wherever the encoder's index is legal (R33, R210). -/
theorem exec_next_of_act {i : Instr} {s : State} (hact : i.format = .act) (hidx : s.enc.idx.toNat ≤ 12) :
    ∃ t, exec i s = .next t := by
  cases i with
  | decStep delta => exact decStep_next Config.params delta s
  | encStep delta => exact encStep_next Config.params delta s hidx
  | envResetDec | envReadyDec | envSendDec | envKickDec | envRecvDec | envPinDec | envResetEnc | envReadyEnc
  | envSendEnc | envKickEnc => exact ⟨_, rfl⟩
  | _ => cases hact  -- a selector row is no action

/-- Operands cut short are rejected with their action's name (R73). -/
theorem decodeOperands_ne_empty (a : Act) (bs : List Byte) : decodeOperands a bs ≠ .error .empty := by
  intro h
  cases a with
  | decStep | encStep =>
    simp only [decodeOperands, decodeDelta] at h
    split at h <;> cases h
  | envSendDec | envSendEnc =>
    simp only [decodeOperands, decodeMessage] at h
    repeat' split at h
    all_goals cases h
  | envPinDec =>
    simp only [decodeOperands, decodeLevel] at h
    split at h <;> cases h
  | envResetDec | envReadyDec | envKickDec | envRecvDec | envResetEnc | envReadyEnc | envKickEnc => cases h

/-- Only the empty byte string is rejected as empty (R73). -/
theorem eq_nil_of_decode_empty {bs : List Byte} (h : decode bs = .error .empty) : bs = [] := by
  cases bs with
  | nil => rfl
  | cons b bs =>
    rw [decode] at h
    split at h
    · split at h
      · cases h
      · exact absurd h (decodeOperands_ne_empty _ _)
    · cases h

/-- Settles O45: bytes that are no record are passed over, and an action completes. -/
theorem stepNeverStopsMidRun : Obligations.StepNeverStopsMidRun := by
  intro s hidx hscript
  cases hdecode : decode s.script with
  | ok x =>
    obtain ⟨i, rest⟩ := x
    rw [step_of_decode_ok hdecode]
    exact exec_next_of_act (decode_format hdecode) hidx
  | error r =>
    have hne : r ≠ .empty := by
      rintro rfl
      exact hscript (eq_nil_of_decode_empty hdecode)
    exact ⟨_, step_of_decode_error hdecode hne⟩

/-! ## What a row reads -/

/-- What the decoder's side shows of an outcome: the unit and its pin, where the row completes. -/
def decView : Result → Option (DecState × Bool)
  | .next t => some (t.dec, t.pinIn)
  | .fault _ => none
  | .refused _ => none

/-- What the encoder's side shows of an outcome. -/
def encView : Result → Option EncState
  | .next t => some t.enc
  | .fault _ => none
  | .refused _ => none

theorem decView_eq_some_iff (r : Result) (d : DecState) (pin : Bool) :
    decView r = some (d, pin) ↔ ∃ t, r = .next t ∧ t.dec = d ∧ t.pinIn = pin := by
  cases r <;> simp [decView]

theorem encView_eq_some_iff (r : Result) (u : EncState) : encView r = some u ↔ ∃ t, r = .next t ∧ t.enc = u := by
  cases r <;> simp [encView]

theorem decView_liftDec (s r : State) (x : Except Fault DecState) (hpin : s.pinIn = r.pinIn) :
    decView (liftDec s x) = decView (liftDec r x) := by
  cases x with
  | ok d => exact congrArg (fun b => some (d, b)) hpin
  | error f => rfl

theorem encView_liftEnc (s r : State) (x : Except Fault EncState) :
    encView (liftEnc s x) = encView (liftEnc r x) := by
  cases x <;> rfl

/-- A row of DEC reads only the decoder and its pin, whatever the rest of the state is (R20, R62). -/
theorem decView_exec (i : Instr) (s r : State) (hu : unitOf i = .dec) :
    decView (exec i { r with dec := s.dec, pinIn := s.pinIn }) = decView (exec i s) := by
  cases i with
  | decStep delta =>
    rw [exec_decStep, exec_decStep, decStep, decStep]
    split
    · exact decView_liftDec _ _ _ rfl
    · rfl
  | envSendDec m =>
    rw [exec_envSendDec, exec_envSendDec]
    by_cases hok : msgOk Config.params m = true
    · rw [envSendDec_of_msgOk _ _ _ hok, envSendDec_of_msgOk _ _ _ hok]
      split <;> rfl
    · rw [envSendDec_of_not_msgOk _ _ _ hok, envSendDec_of_not_msgOk _ _ _ hok]
      rfl
  | envRecvDec =>
    simp only [exec, execEnvRecvDec, envRecvDec]
    split <;> rfl
  | envPinDec level =>
    rw [exec_envPinDec, exec_envPinDec, envPinDec, envPinDec]
    split <;> rfl
  | decRiseChan => exact decView_liftDec _ _ _ rfl
  | envResetDec | envReadyDec | envKickDec | decIdleLow | decIdleHigh | decRiseGap | decFallOk | decFallLong
  | decBridgeIdle | decBridgeService | decMsgDiscard => rfl
  | ctrTick | ctrRead | ctrResetTick => cases hu; rfl
  | encStep | envResetEnc | envReadyEnc | envSendEnc | envKickEnc | encWait | encRise | encFallFirst | encFallChan
  | encFallPad | encBridgeIdle | encBridgeService | encMsgApply | encMsgReject => cases hu

/-- A row of ENC reads only the encoder, whatever the rest of the state is (R20, R62). -/
theorem encView_exec (i : Instr) (s r : State) (hu : unitOf i = .enc) :
    encView (exec i { r with enc := s.enc }) = encView (exec i s) := by
  cases i with
  | encStep delta =>
    rw [exec_encStep, exec_encStep, encStep, encStep]
    dsimp only
    split
    · split
      · rfl
      · split
        · exact encView_liftEnc _ _ _
        · rfl
    · rfl
  | envSendEnc m =>
    rw [exec_envSendEnc, exec_envSendEnc]
    by_cases hok : msgOk Config.params m = true
    · rw [envSendEnc_of_msgOk _ _ _ hok, envSendEnc_of_msgOk _ _ _ hok]
      split <;> rfl
    · rw [envSendEnc_of_not_msgOk _ _ _ hok, envSendEnc_of_not_msgOk _ _ _ hok]
      rfl
  | encFallChan => exact encView_liftEnc _ _ _
  | envResetEnc | envReadyEnc | envKickEnc | encWait | encRise | encFallFirst | encFallPad | encBridgeIdle
  | encBridgeService | encMsgApply | encMsgReject => rfl
  | ctrTick | ctrRead | ctrResetTick => cases hu; rfl
  | decStep | envResetDec | envReadyDec | envSendDec | envKickDec | envRecvDec | envPinDec | decIdleLow | decIdleHigh
  | decRiseGap | decRiseChan | decFallOk | decFallLong | decBridgeIdle | decBridgeService | decMsgDiscard => cases hu

/-- Settles O50: two states that agree on what a row reads show the same of its outcome. -/
theorem unitOutcomeIndependentOfTheOther : Obligations.UnitOutcomeIndependentOfTheOther := by
  intro i s s' t h
  refine ⟨fun hu hdec hpin => ?_, fun hu henc => ?_⟩
  · rw [← decView_eq_some_iff]
    calc decView (exec i s')
        = decView (exec i { s' with dec := s.dec, pinIn := s.pinIn }) := by rw [← hdec, ← hpin]
      _ = decView (exec i s) := decView_exec i s s' hu
      _ = some (t.dec, t.pinIn) := by rw [h, decView]
  · rw [← encView_eq_some_iff]
    calc encView (exec i s')
        = encView (exec i { s' with enc := s.enc }) := by rw [← henc]
      _ = encView (exec i s) := encView_exec i s s' hu
      _ = some t.enc := by rw [h, encView]

end Sys2Proof

/-!
PROOF. What a step of the run can do to each unit, said once as a move, and the invariants that follow move by move
(10_state.md R21, R22, R44; 20_memory.md R68; 41_decoder.md R144).
-/

namespace Sys2Proof
open Machine Safety

/-! ## The moves of the decoder -/

/-- What an action can do to the decoder `d`, with `pin` the level at its input. -/
inductive DecMove (pin : Bool) (d : DecState) (i : Instr) : DecState → Prop where
  | kept : DecMove pin d i d
  | waited (delta : Cyc) (hi : i = .decStep delta) (hinit : d.mode = .init) :
      DecMove pin d i (decInit (decClearEvent d))
  | stepped (delta : Cyc) (hi : i = .decStep delta) (hrun : d.mode = .run) :
      DecMove pin d i (bridgeDec Config.params (decTimed Config.params pin delta d))
  | reset (hi : i = .envResetDec) : DecMove pin d i DecState.reset
  | readied : DecMove pin d i { d with ready := true }
  | kicked : DecMove pin d i { d with kick := true }
  | sent (m : Message) (hok : msgOk Config.params m = true) (hroom : d.inq.length < Config.params.qInCap) :
      DecMove pin d i { d with inq := d.inq ++ [m] }
  | received (m : Message) (rest : List Message) (hqueue : d.outq = m :: rest) :
      DecMove pin d i { d with outq := rest }

theorem exec_decStep_decMove {delta : Cyc} {s t : State} (h : exec (.decStep delta) s = .next t) :
    DecMove s.pinIn s.dec (.decStep delta) t.dec := by
  by_cases hdelta : deltaOk Config.params delta = true
  · cases hmode : s.dec.mode with
    | init =>
      rw [exec_decStep_of_deltaOk s delta hdelta, decStepUnit_of_init _ _ _ _ hmode] at h
      cases h
      exact .waited delta rfl hmode
    | run =>
      rw [exec_decStep_of_run s delta hdelta hmode] at h
      cases h
      exact .stepped delta rfl hmode
  · rw [exec_decStep, decStep_of_not_deltaOk _ _ _ hdelta] at h
    cases h
    exact .kept

theorem envSendDec_decMove (m : Message) (s : State) :
    DecMove s.pinIn s.dec (.envSendDec m) (envSendDec Config.params m s).dec := by
  by_cases hok : msgOk Config.params m = true
  · rw [envSendDec_of_msgOk _ _ _ hok]
    split
    next hroom => exact .sent m hok hroom
    · exact .kept
  · rw [envSendDec_of_not_msgOk _ _ _ hok]
    exact .kept

theorem envRecvDec_decMove (s : State) : DecMove s.pinIn s.dec .envRecvDec (envRecvDec s).dec := by
  unfold envRecvDec
  split
  · exact .kept
  next m rest hqueue => exact .received m rest hqueue

theorem envPinDec_dec (level : Byte) (s : State) : (envPinDec level s).dec = s.dec := by
  unfold envPinDec
  split <;> rfl

/-- Every action of an agent is one of the decoder's moves. -/
theorem exec_decMove {i : Instr} {s t : State} (hact : i.format = .act) (h : exec i s = .next t) :
    DecMove s.pinIn s.dec i t.dec := by
  cases hu : unitOf i with
  | enc =>
    rw [exec_dec_of_unitOf_enc hu h]
    exact .kept
  | dec =>
    cases i with
    | decStep delta => exact exec_decStep_decMove h
    | envResetDec => cases h; exact .reset rfl
    | envReadyDec => cases h; exact .readied
    | envSendDec m => cases h; exact envSendDec_decMove m s
    | envKickDec => cases h; exact .kicked
    | envRecvDec => cases h; exact envRecvDec_decMove s
    | envPinDec level =>
      cases h
      rw [envPinDec_dec]
      exact .kept
    | encStep | envResetEnc | envReadyEnc | envSendEnc | envKickEnc => cases hu
    | _ => cases hact  -- a selector row is no action

/-! ## The moves of the encoder -/

/-- What an action can do to the encoder `u`. -/
inductive EncMove (u : EncState) (i : Instr) : EncState → Prop where
  | kept : EncMove u i u
  | waited (delta : Cyc) (hi : i = .encStep delta) (hinit : u.mode = .init) : EncMove u i (encInit u)
  | stepped (delta : Cyc) (c : EncCase) (v : EncState) (hi : i = .encStep delta) (hrun : u.mode = .run)
      (htake : encTake Config.params c (encEnter u) = .ok v) :
      EncMove u i (bridgeEnc Config.params (encTicked delta v))
  | reset (hi : i = .envResetEnc) : EncMove u i EncState.reset
  | readied : EncMove u i { u with ready := true }
  | kicked : EncMove u i { u with kick := true }
  | sent (m : Message) (hok : msgOk Config.params m = true) (hroom : u.inq.length < Config.params.qInCap) :
      EncMove u i { u with inq := u.inq ++ [m] }

theorem exec_encStep_encMove {delta : Cyc} {s t : State} (h : exec (.encStep delta) s = .next t) :
    EncMove s.enc (.encStep delta) t.enc := by
  obtain ⟨-, rfl⟩ | ⟨-, hinit, rfl⟩ | ⟨-, hrun, c, v, -, htake, rfl⟩ := encStep_cases h
  · exact .kept
  · exact .waited delta rfl hinit
  · rw [encLeave_eq]
    exact .stepped delta c v rfl hrun htake

theorem envSendEnc_encMove (m : Message) (s : State) :
    EncMove s.enc (.envSendEnc m) (envSendEnc Config.params m s).enc := by
  by_cases hok : msgOk Config.params m = true
  · rw [envSendEnc_of_msgOk _ _ _ hok]
    split
    next hroom => exact .sent m hok hroom
    · exact .kept
  · rw [envSendEnc_of_not_msgOk _ _ _ hok]
    exact .kept

/-- Every action of an agent is one of the encoder's moves. -/
theorem exec_encMove {i : Instr} {s t : State} (hact : i.format = .act) (h : exec i s = .next t) :
    EncMove s.enc i t.enc := by
  cases hu : unitOf i with
  | dec =>
    rw [exec_enc_of_unitOf_dec hu h]
    exact .kept
  | enc =>
    obtain ⟨delta, rfl⟩ | rfl | rfl | ⟨m, rfl⟩ | rfl := act_enc_cases hact hu
    · exact exec_encStep_encMove h
    · cases h; exact .reset rfl
    · cases h; exact .readied
    · cases h; exact envSendEnc_encMove m s
    · cases h; exact .kicked

/-- A step of the run is a move of each unit by the action of its record, or leaves both units alone. -/
theorem step_moves {s t : State} (h : step s = .next t) :
    (t.dec = s.dec ∧ t.enc = s.enc) ∨
    ∃ i rest, decode s.script = .ok (i, rest) ∧ DecMove s.pinIn s.dec i t.dec ∧ EncMove s.enc i t.enc := by
  obtain ⟨i, rest, hdecode, hexec⟩ | ⟨r, -, -, rfl⟩ := step_cases h
  · have hact := decode_format hdecode
    exact .inr ⟨i, rest, hdecode, exec_decMove (s := s.withScript rest) hact hexec,
      exec_encMove (s := s.withScript rest) hact hexec⟩
  · exact .inl ⟨rfl, rfl⟩

/-- What every move of a unit keeps, every step of the run keeps. -/
theorem step_keeps {P : DecState → Prop} {Q : EncState → Prop}
    (hdec : ∀ pin d i d', P d → DecMove pin d i d' → P d') (henc : ∀ u i u', Q u → EncMove u i u' → Q u')
    {s t : State} (hP : P s.dec) (hQ : Q s.enc) (h : step s = .next t) : P t.dec ∧ Q t.enc := by
  obtain ⟨hd, he⟩ | ⟨i, -, -, hd, he⟩ := step_moves h
  · rw [hd, he]
    exact ⟨hP, hQ⟩
  · exact ⟨hdec _ _ _ _ hP hd, henc _ _ _ hQ he⟩

/-! ## What the bridge parts leave -/

/-- The decoder's bridge part writes the signal, the queues and the peer alone (R184). -/
theorem bridgeDec_keeps (p : Params) (d : DecState) :
    (bridgeDec p d).mode = d.mode ∧ (bridgeDec p d).ready = d.ready ∧ (bridgeDec p d).idx = d.idx ∧
      (bridgeDec p d).frame = d.frame ∧ (bridgeDec p d).vars = d.vars := by
  rw [bridgeDec_eq, decBridgeService_eq]
  split <;> exact ⟨rfl, rfl, rfl, rfl, rfl⟩

/-- The decoder's bridge part keeps the inbound queue or empties it (R184). -/
theorem bridgeDec_inq (p : Params) (d : DecState) : (bridgeDec p d).inq = d.inq ∨ (bridgeDec p d).inq = [] := by
  rw [bridgeDec_eq, decBridgeService_eq]
  split
  · exact .inr rfl
  · exact .inl rfl

/-- The decoder's bridge part keeps the outbound queue, or puts one reply at the tail where there is room (R186,
R187). -/
theorem bridgeDec_outq (p : Params) (d : DecState) :
    (bridgeDec p d).outq = d.outq ∨
    d.outq.length < p.qOutCap ∧ ∃ peer,
      (bridgeDec p d).outq = d.outq ++ [{ src := p.decPort, dst := peer, len := 24, data := pack d.frame }] := by
  rw [bridgeDec_eq, decBridgeService_eq]
  split
  · dsimp only
    split
    next hroom => exact .inr ⟨hroom, _, rfl⟩
    · exact .inl rfl
  · exact .inl rfl

/-- The encoder's bridge part writes the signal, the queue and the frame alone (R189). -/
theorem bridgeEnc_keeps (p : Params) (u : EncState) :
    (bridgeEnc p u).mode = u.mode ∧ (bridgeEnc p u).ready = u.ready ∧ (bridgeEnc p u).idx = u.idx ∧
      (bridgeEnc p u).vars = u.vars := by
  rw [bridgeEnc_eq, encBridgeService_eq]
  split <;> exact ⟨rfl, rfl, rfl, rfl⟩

/-- The encoder's bridge part keeps the inbound queue or empties it (R189). -/
theorem bridgeEnc_inq (p : Params) (u : EncState) : (bridgeEnc p u).inq = u.inq ∨ (bridgeEnc p u).inq = [] := by
  rw [bridgeEnc_eq, encBridgeService_eq]
  split
  · exact .inr rfl
  · exact .inl rfl

/-- The readiness wait of the decoder: its two ends (R122). -/
theorem decInit_cases (d : DecState) :
    d.ready = true ∧ decInit d = { d with mode := .run, cyc := 0#32 } ∨ decInit d = d := by
  unfold decInit
  split
  next hready => exact .inl ⟨hready, rfl⟩
  · exact .inr rfl

/-- The readiness wait of the encoder: its two ends (R152). -/
theorem encInit_cases (u : EncState) :
    u.ready = true ∧ encInit u = { u with mode := .run, cyc := 0#32 } ∨ encInit u = u := by
  unfold encInit
  split
  next hready => exact .inl ⟨hready, rfl⟩
  · exact .inr rfl

/-! ## The invariants of R44 -/

theorem frameInRange_setChannel {f : Frame} {i : Nat} {v : Chan} (hf : FrameInRange f)
    (hv : 1000 ≤ v.toNat ∧ v.toNat ≤ 2000) : FrameInRange (setChannel f i v) := by
  intro w hw
  rw [setChannel, Vector.toList_setIfInBounds] at hw
  obtain hw | rfl := List.mem_or_eq_of_mem_set hw
  · exact hf w hw
  · exact hv

/-- The timing part writes only clamped values (R137). -/
theorem frameInRange_decTimed {p : Params} {cur : Bool} {delta : Cyc} {d : DecState} (h : FrameInRange d.frame) :
    FrameInRange (decTimed p cur delta d).frame := by
  simp only [decTimed]
  split
  · rw [← chanValue_eq]
    apply frameInRange_setChannel h
    rw [chanValue_toNat]
    exact ⟨clamp_ge _, clamp_le _⟩
  · exact h

/-- The timing part leaves an index of at most 12 (R27, R123). -/
theorem decTimed_idx_le (p : Params) (cur : Bool) (delta : Cyc) (d : DecState) :
    (decTimed p cur delta d).idx.toNat ≤ 12 := by
  have hlt := wrappedIdx_lt d
  simp only [decTimed]
  split
  · split
    · exact Nat.zero_le _
    · rw [BitVec.toNat_ofNat]
      omega
  · rw [BitVec.toNat_ofNat]
    omega

/-- The decoder's items of R44 for a RUN step, part by part. -/
theorem decInvariant_stepped {pin : Bool} {delta : Cyc} {d : DecState} (h : DecInvariant Config.params d)
    (hrun : d.mode = .run) :
    DecInvariant Config.params (bridgeDec Config.params (decTimed Config.params pin delta d)) := by
  obtain ⟨-, hframe, -, hinq, houtq, -, hreplies⟩ := h
  obtain ⟨hmode, -, hidx, hkept, -⟩ := bridgeDec_keeps Config.params (decTimed Config.params pin delta d)
  refine ⟨?_, ?_, cyc_le _, ?_, ?_, fun hinit => ?_, ?_⟩
  · rw [hidx]
    exact decTimed_idx_le _ _ _ _
  · rw [hkept]
    exact frameInRange_decTimed hframe
  · obtain hq | hq := bridgeDec_inq Config.params (decTimed Config.params pin delta d)
    · rw [hq]
      exact hinq
    · rw [hq]
      exact Nat.zero_le _
  · obtain hq | ⟨hroom, peer, hq⟩ := bridgeDec_outq Config.params (decTimed Config.params pin delta d)
    · rw [hq]
      exact houtq
    · rw [hq, List.length_append]
      exact hroom
  · exact absurd (hinit.symm.trans (hmode.trans hrun)) (by decide)
  · obtain hq | ⟨-, peer, hq⟩ := bridgeDec_outq Config.params (decTimed Config.params pin delta d)
    · rw [hq]
      exact hreplies
    · rw [hq]
      intro m hm
      obtain hm | hm := List.mem_append.mp hm
      · exact hreplies m hm
      · rw [List.mem_singleton.mp hm]
        exact ⟨rfl, rfl⟩

/-- Every move of the decoder keeps its items of R44. -/
theorem decInvariant_move (pin : Bool) (d : DecState) (i : Instr) (d' : DecState)
    (h : DecInvariant Config.params d) (hmove : DecMove pin d i d') : DecInvariant Config.params d' := by
  cases hmove with
  | stepped delta _ hrun => exact decInvariant_stepped h hrun
  | reset => exact decInvariant_reset Config.params
  | kept | readied | kicked => exact h
  | waited =>
    obtain ⟨hidx, hframe, hcyc, hinq, houtq, hinit, hreplies⟩ := h
    obtain ⟨-, heq⟩ | heq := decInit_cases (decClearEvent d)
    · rw [heq]
      exact ⟨hidx, hframe, Nat.zero_le _, hinq, houtq, fun _ => rfl, hreplies⟩
    · rw [heq]
      exact ⟨hidx, hframe, hcyc, hinq, houtq, hinit, hreplies⟩
  | sent m _ hroom =>
    obtain ⟨hidx, hframe, hcyc, -, houtq, hinit, hreplies⟩ := h
    refine ⟨hidx, hframe, hcyc, ?_, houtq, hinit, hreplies⟩
    rw [List.length_append]
    exact hroom
  | received m rest hqueue =>
    obtain ⟨hidx, hframe, hcyc, hinq, houtq, hinit, hreplies⟩ := h
    rw [hqueue] at houtq hreplies
    exact ⟨hidx, hframe, hcyc, hinq, Nat.le_of_succ_le houtq, hinit,
      fun x hx => hreplies x (List.mem_cons_of_mem m hx)⟩

/-- A case leaves an index of at most 12 (R33): a rest is scheduled only for a channel. -/
theorem encTake_idx_le {p : Params} {c : EncCase} {u v : EncState} (h : encTake p c u = .ok v)
    (hidx : u.idx.toNat ≤ 12) : v.idx.toNat ≤ 12 := by
  cases c with
  | wait | rise => cases h; exact hidx
  | fallFirst => cases h; exact (by decide : (1#4).toNat ≤ 12)
  | fallPad => cases h; exact Nat.zero_le _
  | fallChan =>
    by_cases hlt : u.idx.toNat < 12
    · rw [encTake, encFallChan_of_idx_lt p u hlt] at h
      cases h
      rw [BitVec.toNat_ofNat]
      omega
    · rw [encTake, encFallChan_of_idx_ge p u (Nat.le_of_not_lt hlt)] at h
      cases h

/-- Every move of the encoder keeps its items of R44. -/
theorem encInvariant_move (u : EncState) (i : Instr) (u' : EncState) (h : EncInvariant Config.params u)
    (hmove : EncMove u i u') : EncInvariant Config.params u' := by
  obtain ⟨hidx, hcyc, hacc, hdeadline, hinq, hinit⟩ := h
  cases hmove with
  | kept | readied | kicked => exact ⟨hidx, hcyc, hacc, hdeadline, hinq, hinit⟩
  | reset => exact encInvariant_reset Config.params
  | waited =>
    obtain ⟨-, heq⟩ | heq := encInit_cases u
    · rw [heq]
      exact ⟨hidx, Nat.zero_le _, hacc, hdeadline, hinq, fun _ => rfl⟩
    · rw [heq]
      exact ⟨hidx, hcyc, hacc, hdeadline, hinq, hinit⟩
  | sent m _ hroom =>
    refine ⟨hidx, hcyc, hacc, hdeadline, ?_, hinit⟩
    rw [List.length_append]
    exact hroom
  | stepped delta c v _ hrun htake =>
    obtain ⟨hvmode, -, -, -, hvinq, -⟩ := encTake_keeps htake
    obtain ⟨hmode, -, hkept, -⟩ := bridgeEnc_keeps Config.params (encTicked delta v)
    refine ⟨?_, cyc_le _, cyc_le _, cyc_le _, ?_, fun hbad => ?_⟩
    · rw [hkept]
      exact encTake_idx_le (v := v) htake hidx
    · obtain hq | hq := bridgeEnc_inq Config.params (encTicked delta v)
      · rw [hq]
        exact hvinq ▸ hinq
      · rw [hq]
        exact Nat.zero_le _
    · exact absurd (hbad.symm.trans (hmode.trans (hvmode.trans hrun))) (by decide)

/-- Settles O46: every move of each unit keeps the unit's items of R44. -/
theorem invariantKeptByEveryStep : Obligations.InvariantKeptByEveryStep :=
  fun _ _ ⟨hdec, henc⟩ h => step_keeps decInvariant_move encInvariant_move hdec henc h

/-! ## Queued messages and the step variables -/

/-- The decoder's queues hold messages of R68, and its step variables are at rest (log 4). -/
def DecMessages (d : DecState) : Prop :=
  (∀ m ∈ d.inq, msgOk Config.params m = true) ∧ (∀ m ∈ d.outq, msgOk Config.params m = true) ∧
    d.vars = StepVars.rest

/-- The encoder's queue holds messages of R68, and its step variables are at rest (log 4). -/
def EncMessages (u : EncState) : Prop :=
  (∀ m ∈ u.inq, msgOk Config.params m = true) ∧ u.vars = StepVars.rest

/-- A reply is a message of R68 at every MSG_MAX (R8, R186). -/
theorem msgOk_reply (peer : Endpoint) (f : Frame) :
    msgOk Config.params { src := Config.params.decPort, dst := peer, len := 24, data := pack f } = true :=
  (msgOk_iff _ _).mpr ⟨Config.params_msgMax_ge, (pack_length f).symm⟩

theorem decMessages_move (pin : Bool) (d : DecState) (i : Instr) (d' : DecState) (h : DecMessages d)
    (hmove : DecMove pin d i d') : DecMessages d' := by
  obtain ⟨hinq, houtq, hvars⟩ := h
  cases hmove with
  | kept | readied | kicked => exact ⟨hinq, houtq, hvars⟩
  | reset => exact ⟨fun _ hm => absurd hm List.not_mem_nil, fun _ hm => absurd hm List.not_mem_nil, rfl⟩
  | waited =>
    obtain ⟨-, heq⟩ | heq := decInit_cases (decClearEvent d)
    · rw [heq]
      exact ⟨hinq, houtq, hvars⟩
    · rw [heq]
      exact ⟨hinq, houtq, hvars⟩
  | sent m hok _ => exact ⟨List.forall_mem_append.mpr ⟨hinq, List.forall_mem_singleton.mpr hok⟩, houtq, hvars⟩
  | received m rest hqueue =>
    rw [hqueue] at houtq
    exact ⟨hinq, fun x hx => houtq x (List.mem_cons_of_mem m hx), hvars⟩
  | stepped delta =>
    obtain ⟨-, -, -, -, hrest⟩ := bridgeDec_keeps Config.params (decTimed Config.params pin delta d)
    refine ⟨?_, ?_, hrest⟩
    · obtain hq | hq := bridgeDec_inq Config.params (decTimed Config.params pin delta d)
      · rw [hq]
        exact hinq
      · rw [hq]
        exact fun _ hm => absurd hm List.not_mem_nil
    · obtain hq | ⟨-, peer, hq⟩ := bridgeDec_outq Config.params (decTimed Config.params pin delta d)
      · rw [hq]
        exact houtq
      · rw [hq]
        exact List.forall_mem_append.mpr ⟨houtq, List.forall_mem_singleton.mpr (msgOk_reply peer _)⟩

theorem encMessages_move (u : EncState) (i : Instr) (u' : EncState) (h : EncMessages u)
    (hmove : EncMove u i u') : EncMessages u' := by
  obtain ⟨hinq, hvars⟩ := h
  cases hmove with
  | kept | readied | kicked => exact ⟨hinq, hvars⟩
  | reset => exact ⟨fun _ hm => absurd hm List.not_mem_nil, rfl⟩
  | waited =>
    obtain ⟨-, heq⟩ | heq := encInit_cases u
    · rw [heq]
      exact ⟨hinq, hvars⟩
    · rw [heq]
      exact ⟨hinq, hvars⟩
  | sent m hok _ => exact ⟨List.forall_mem_append.mpr ⟨hinq, List.forall_mem_singleton.mpr hok⟩, hvars⟩
  | stepped delta c v _ _ htake =>
    obtain ⟨-, -, -, -, hvinq, -⟩ := encTake_keeps htake
    obtain ⟨-, -, -, hrest⟩ := bridgeEnc_keeps Config.params (encTicked delta v)
    refine ⟨?_, hrest⟩
    obtain hq | hq := bridgeEnc_inq Config.params (encTicked delta v)
    · rw [hq]
      exact hvinq ▸ hinq
    · rw [hq]
      exact fun _ hm => absurd hm List.not_mem_nil

/-- Settles O48: every move of each unit keeps its queues' messages legal and its step variables at rest. -/
theorem queuedMessagesStayMessages : Obligations.QueuedMessagesStayMessages := by
  intro s t ⟨hdinq, heinq, hdoutq⟩ ⟨hdvars, hevars⟩ h
  obtain ⟨⟨hdinq', hdoutq', hdvars'⟩, heinq', hevars'⟩ :=
    step_keeps decMessages_move encMessages_move ⟨hdinq, hdoutq, hdvars⟩ ⟨heinq, hevars⟩ h
  exact ⟨⟨hdinq', heinq', hdoutq'⟩, hdvars', hevars'⟩

/-! ## The writes of `dec.frame` -/

/-- A move changes the frame only by the reset or by a rise within MAX_GAP_C in RUN (R144). -/
theorem decMove_frame {pin : Bool} {d d' : DecState} {i : Instr} (hmove : DecMove pin d i d')
    (hne : d'.frame ≠ d.frame) :
    i = .envResetDec ∧ d'.frame = Vector.replicate 12 1000#16 ∨
    (∃ delta, i = .decStep delta) ∧ d.mode = .run ∧ d.last = false ∧ pin = true ∧
      d.cyc.toNat ≤ 1720 * Config.params.cpu ∧
      d'.frame = setChannel d.frame (wrappedIdx d)
        (BitVec.ofNat 16 (min (max (d.cyc.toNat / Config.params.cpu + 300) 1000) 2000)) := by
  cases hmove with
  | kept | readied | kicked | sent | received => exact absurd rfl hne
  | reset hi => exact .inl ⟨hi, frameReset_eq_replicate⟩
  | waited =>
    obtain ⟨-, heq⟩ | heq := decInit_cases (decClearEvent d) <;> exact absurd (congrArg DecState.frame heq) hne
  | stepped delta hi hrun =>
    obtain ⟨-, -, -, hframe, -⟩ := bridgeDec_keeps Config.params (decTimed Config.params pin delta d)
    rw [hframe] at hne ⊢
    simp only [decTimed] at hne ⊢
    split at hne
    next hrise =>
      rw [if_pos hrise]
      obtain ⟨⟨hlast, hpin⟩, hgap⟩ := hrise
      exact .inr ⟨⟨delta, hi⟩, hrun, hlast, hpin, Nat.le_of_not_gt hgap, rfl⟩
    · exact absurd rfl hne

/-- Settles O52: a step that changes the frame moves the decoder, by one of the two moves that write it. -/
theorem decFrameWrittenOnlyByRiseChan : Obligations.DecFrameWrittenOnlyByRiseChan := by
  intro s t h hne
  obtain ⟨hdec, -⟩ | ⟨i, rest, hdecode, hdec, -⟩ := step_moves h
  · exact absurd (congrArg DecState.frame hdec) hne
  · exact ⟨i, rest, hdecode, decMove_frame hdec hne⟩

/-! ## Mode and readiness -/

/-- The transitions R21 and R22 allow a unit, from its mode and ready flag before and after, whether its STEP was taken
and whether its reset was. -/
def ModeTransition (mode mode' : Mode) (ready ready' : Bool) (stepped reset : Prop) : Prop :=
  (mode = .init → mode' = .run → ready = true ∧ stepped) ∧ (mode = .run → mode' = .init → reset) ∧
    (ready = true → ready' = false → reset)

theorem ModeTransition.of_reset {mode ready ready' stepped reset} (h : reset) :
    ModeTransition mode .init ready ready' stepped reset :=
  ⟨fun _ hrun => (nomatch hrun), fun _ _ => h, fun _ _ => h⟩

theorem ModeTransition.of_start {ready stepped reset} (hready : ready = true) (hstepped : stepped) :
    ModeTransition .init .run ready ready stepped reset :=
  ⟨fun _ _ => ⟨hready, hstepped⟩, fun hrun => (nomatch hrun), fun h h' => absurd (h.symm.trans h') (by decide)⟩

theorem ModeTransition.of_kept {mode ready ready' stepped reset} (hready : ready = true → ready' = true) :
    ModeTransition mode mode ready ready' stepped reset :=
  ⟨fun h h' => absurd (h.symm.trans h') (by decide), fun h h' => absurd (h.symm.trans h') (by decide),
    fun h h' => absurd ((hready h).symm.trans h') (by decide)⟩

theorem decMove_modeTransition {pin : Bool} {d d' : DecState} {i : Instr} (hmove : DecMove pin d i d') :
    ModeTransition d.mode d'.mode d.ready d'.ready (∃ delta, i = .decStep delta) (i = .envResetDec) := by
  cases hmove with
  | kept | kicked | sent | received => exact .of_kept id
  | readied => exact .of_kept fun _ => rfl
  | reset hi => exact .of_reset hi
  | waited delta hi hinit =>
    obtain ⟨hready, heq⟩ | heq := decInit_cases (decClearEvent d)
    · rw [heq, hinit]
      exact .of_start hready ⟨delta, hi⟩
    · rw [heq]
      exact .of_kept id
  | stepped delta =>
    obtain ⟨hmode, hready, -⟩ := bridgeDec_keeps Config.params (decTimed Config.params pin delta d)
    rw [hmode, hready]
    exact .of_kept id

theorem encMove_modeTransition {u u' : EncState} {i : Instr} (hmove : EncMove u i u') :
    ModeTransition u.mode u'.mode u.ready u'.ready (∃ delta, i = .encStep delta) (i = .envResetEnc) := by
  cases hmove with
  | kept | kicked | sent => exact .of_kept id
  | readied => exact .of_kept fun _ => rfl
  | reset hi => exact .of_reset hi
  | waited delta hi hinit =>
    obtain ⟨hready, heq⟩ | heq := encInit_cases u
    · rw [heq, hinit]
      exact .of_start hready ⟨delta, hi⟩
    · rw [heq]
      exact .of_kept id
  | stepped delta c v _ _ htake =>
    obtain ⟨hmode, hready, -⟩ := bridgeEnc_keeps Config.params (encTicked delta v)
    obtain ⟨hvmode, hvready, -⟩ := encTake_keeps htake
    rw [hmode.trans hvmode, hready.trans hvready]
    exact .of_kept id

/-- Settles O54: the action is a move of each unit, and each move makes one of the allowed transitions. -/
theorem modeAndReadyTransitions : Obligations.ModeAndReadyTransitions := by
  intro s t h i rest hdecode
  have hact := decode_format hdecode
  rw [step_of_decode_ok hdecode] at h
  obtain ⟨hdstart, hdstop, hdready⟩ := decMove_modeTransition (exec_decMove hact h)
  obtain ⟨hestart, hestop, heready⟩ := encMove_modeTransition (exec_encMove hact h)
  exact ⟨hdstart, hdstop, hdready, hestart, hestop, heready⟩

end Sys2Proof

/-!
PROOF. Runs of several actions (30_encoding.md R91): the decoder's line and the host's reads and writes
(40_cycle_counter.md R107; 41_decoder.md R138, R140; 60_exceptions.md R223).
-/

namespace Sys2Proof
open Machine Safety

/-! ## Runs -/

theorem runActs_cons {i : Instr} {rest : List Instr} {s t : State} (h : exec i s = .next t) :
    runActs (i :: rest) s = runActs rest t := by
  rw [runActs, h]

theorem runActs_append {xs ys : List Instr} {s t : State} (h : runActs xs s = .next t) :
    runActs (xs ++ ys) s = runActs ys t := by
  induction xs generalizing s with
  | nil =>
    cases h
    rfl
  | cons x xs ih =>
    cases hx : exec x s with
    | next u =>
      rw [runActs_cons hx] at h
      rw [List.cons_append, runActs_cons hx, ih h]
    | fault f => simp [runActs, hx] at h
    | refused r => simp [runActs, hx] at h

/-- Δ = 1 is legal at every LAT_MAX (R8, R72). -/
theorem deltaOk_one : deltaOk Config.params 1#32 = true := deltaOk_of_bounds (Nat.le_refl 1) Config.params_latMax_pos

/-- A tick and then more cycles saturate as their sum (R103). -/
theorem satW_tickValue_add (c delta : Cyc) (n : Nat) :
    satW ((tickValue c delta).toNat + n) = satW (c.toNat + (delta.toNat + n : Nat)) := by
  apply BitVec.eq_of_toNat_eq
  rw [satW_toNat, satW_toNat, tickValue_toNat, cycMax]
  omega

/-! ## Decoder steps with no edge -/

/-- What a step with no edge leaves (R126, R127, R135). -/
def decTicked (delta : Cyc) (d : DecState) : DecState :=
  { d with malformed := false, cyc := tickValue d.cyc delta, vars := StepVars.rest }

theorem decTimed_of_no_edge (p : Params) (delta : Cyc) (d : DecState) (hidx : d.idx.toNat < 12) :
    decTimed p d.last delta d = decTicked delta d := by
  have hfixed : BitVec.ofNat 4 d.idx.toNat = d.idx := by rw [BitVec.ofNat_toNat, BitVec.setWidth_eq]
  cases hlast : d.last <;>
    simp [decTimed, decTicked, hlast, wrappedIdx_of_lt hidx, hfixed, tickValue_eq_ofNat_min]

theorem exec_decStep_of_no_edge (s : State) (delta : Cyc) (hdelta : deltaOk Config.params delta = true)
    (hrun : s.dec.mode = .run) (hkick : s.dec.kick = false) (hlast : s.dec.last = s.pinIn)
    (hidx : s.dec.idx.toNat < 12) :
    exec (.decStep delta) s = .next (s.withDec (decTicked delta s.dec)) := by
  rw [exec_decStep_of_not_kick s delta hdelta hrun hkick, ← hlast, decTimed_of_no_edge _ _ _ hidx]

/-- Steps with no edge, the event clear: each ticks, and nothing else changes (R107). -/
theorem runActs_decSteps_of_no_edge (ds : List Cyc) (s : State)
    (hds : ∀ d ∈ ds, 1 ≤ d.toNat ∧ d.toNat ≤ Config.params.latMax) (hrun : s.dec.mode = .run)
    (hkick : s.dec.kick = false) (hlast : s.dec.last = s.pinIn) (hidx : s.dec.idx.toNat < 12)
    (hevent : s.dec.malformed = false) (hvars : s.dec.vars = StepVars.rest) :
    runActs (ds.map .decStep) s = .next (s.withDec { s.dec with
      cyc := satW (s.dec.cyc.toNat + (ds.map BitVec.toNat).sum) }) := by
  induction ds generalizing s with
  | nil =>
    rw [List.map_nil, List.map_nil, List.sum_nil, Nat.cast_zero, Int.add_zero, satW_of_toNat]
    rfl
  | cons d ds ih =>
    obtain ⟨hpos, hmax⟩ := hds d List.mem_cons_self
    rw [List.map_cons,
      runActs_cons (exec_decStep_of_no_edge s d (deltaOk_of_bounds hpos hmax) hrun hkick hlast hidx),
      ih (s.withDec (decTicked d s.dec)) (fun x hx => hds x (List.mem_cons_of_mem d hx)) hrun hkick hlast hidx rfl rfl,
      List.map_cons, List.sum_cons, ← satW_tickValue_add]
    simp [decTicked, hevent, hvars]

/-- Settles O55: by induction on the steps, each of which ticks. -/
theorem counterIsSumOfDeltas : Obligations.CounterIsSumOfDeltas := by
  intro ds s hds hrun hkick hlast hidx hevent ⟨hvars, _⟩
  exact runActs_decSteps_of_no_edge ds s hds hrun hkick hlast hidx hevent hvars

/-- Steps of Δ = 1 with no edge, whatever the event is: the first clears it. -/
theorem runActs_pseudoDecRun_of_no_edge (n : Nat) (s : State) (hrun : s.dec.mode = .run)
    (hkick : s.dec.kick = false) (hlast : s.dec.last = s.pinIn) (hidx : s.dec.idx.toNat < 12)
    (hvars : s.dec.vars = StepVars.rest) :
    ∃ event, runActs (pseudoDecRun n) s = .next (s.withDec { s.dec with
      malformed := event, cyc := satW (s.dec.cyc.toNat + n) }) := by
  cases n with
  | zero =>
    refine ⟨s.dec.malformed, ?_⟩
    rw [Nat.cast_zero, Int.add_zero, satW_of_toNat]
    rfl
  | succ n =>
    refine ⟨false, ?_⟩
    have hones : ∀ d ∈ List.replicate n 1#32, 1 ≤ d.toNat ∧ d.toNat ≤ Config.params.latMax := by
      intro d hd
      rw [List.eq_of_mem_replicate hd, ← deltaOk_iff]
      exact deltaOk_one
    have htail : pseudoDecRun n = (List.replicate n 1#32).map .decStep := List.map_replicate.symm
    have hsum : ((List.replicate n 1#32).map BitVec.toNat).sum = n := by simp
    rw [pseudoDecRun, List.replicate_succ,
      runActs_cons (exec_decStep_of_no_edge s 1#32 deltaOk_one hrun hkick hlast hidx), ← pseudoDecRun, htail,
      runActs_decSteps_of_no_edge _ (s.withDec (decTicked 1#32 s.dec)) hones hrun hkick hlast hidx rfl rfl, hsum,
      State.withDec_dec, decTicked, satW_tickValue_add, Nat.add_comm n 1]
    simp [hvars]

/-! ## A LOW between two pulses -/

/-- `env.pin dec L` drives the pin to L (R91, R136). -/
theorem exec_envPinDec_bool (level : Bool) (s : State) :
    exec (.envPinDec (if level then 1#8 else 0#8)) s = .next (s.withPin level) := by
  cases level <;> exact exec_envPinDec_of_levelOk s _ rfl

/-- The decoder some cycles after a fall, with its index wrapped (R123, R131, R132). -/
def decLow (event : Bool) (cyc : Cyc) (d : DecState) : DecState :=
  { d with
    malformed := event
    last := false
    idx := BitVec.ofNat 4 (wrappedIdx d)
    cyc := cyc
    vars := StepVars.rest }

theorem decTimed_of_fall (p : Params) (delta : Cyc) (d : DecState) (hlast : d.last = true) :
    decTimed p false delta d = decLow (decide (d.cyc.toNat > 320 * p.cpu)) delta d := by
  simp [decTimed, decLow, hlast]

theorem decLow_idx (event : Bool) (cyc : Cyc) (d : DecState) : (decLow event cyc d).idx.toNat = wrappedIdx d := by
  have hlt := wrappedIdx_lt d
  rw [decLow, BitVec.toNat_ofNat]
  omega

/-- After a pulse, a LOW of l steps of Δ = 1 leaves the counter at l (R138, R140). -/
theorem runActs_hold_low (s : State) (l : Nat) (hrun : s.dec.mode = .run) (hkick : s.dec.kick = false)
    (hlast : s.dec.last = true) (hl : 1 ≤ l) :
    ∃ event, runActs (pseudoHold false l) s =
      .next ((s.withPin false).withDec (decLow event (satW l) s.dec)) := by
  obtain ⟨n, rfl⟩ := Nat.exists_eq_add_of_le hl
  have hfall := exec_decStep_of_not_kick (s.withPin false) 1#32 deltaOk_one hrun hkick
  rw [State.withPin_pinIn, State.withPin_dec, decTimed_of_fall _ _ _ hlast] at hfall
  have hidx : ∀ event, (decLow event 1#32 s.dec).idx.toNat < 12 := by
    intro event
    rw [decLow_idx]
    exact wrappedIdx_lt s.dec
  obtain ⟨event, hidle⟩ := runActs_pseudoDecRun_of_no_edge n
    ((s.withPin false).withDec (decLow (decide (s.dec.cyc.toNat > 320 * Config.params.cpu)) 1#32 s.dec))
    hrun hkick rfl (hidx _) rfl
  refine ⟨event, ?_⟩
  rw [pseudoHold, pseudoDecRun, Nat.add_comm, List.replicate_succ, runActs_cons (exec_envPinDec_bool false s),
    runActs_cons hfall, ← pseudoDecRun, hidle, Nat.add_comm]
  rfl

/-- A pulse's fall, a LOW of l steps and the next rise are the rise's timing part with the counter at l (R138, R140). -/
theorem runActs_low_then_rise (s : State) (l : Nat) (hrun : s.dec.mode = .run) (hkick : s.dec.kick = false)
    (hlast : s.dec.last = true) (hl : 1 ≤ l) :
    ∃ event, runActs (pseudoHold false l ++ pseudoHold true 1) s = .next ((s.withPin true).withDec
      (decTimed Config.params true 1#32 (decLow event (satW l) s.dec))) := by
  obtain ⟨event, hlow⟩ := runActs_hold_low s l hrun hkick hlast hl
  refine ⟨event, ?_⟩
  have hrise := exec_decStep_of_not_kick
    (((s.withPin false).withDec (decLow event (satW l) s.dec)).withPin true) 1#32 deltaOk_one hrun hkick
  rw [runActs_append hlow, pseudoHold, pseudoDecRun, List.replicate_one, runActs_cons (exec_envPinDec_bool true _),
    runActs_cons hrise, runActs]
  rfl

/-- The timing part at a rise within MAX_GAP_C stores at the wrapped index (R129). -/
theorem decTimed_of_rise_chan (p : Params) (delta : Cyc) (d : DecState) (hlast : d.last = false)
    (hgap : d.cyc.toNat ≤ 1720 * p.cpu) :
    decTimed p true delta d = { d with
      malformed := false
      last := true
      idx := BitVec.ofNat 4 (wrappedIdx d + 1)
      frame := setChannel d.frame (wrappedIdx d)
        (BitVec.ofNat 16 (min (max (d.cyc.toNat / p.cpu + 300) 1000) 2000))
      cyc := delta
      vars := StepVars.rest } := by
  simp [decTimed, hlast, Nat.not_lt.mpr hgap]

/-- The timing part at a rise past MAX_GAP_C zeroes the index and stores nothing (R128). -/
theorem decTimed_of_rise_gap (p : Params) (delta : Cyc) (d : DecState) (hlast : d.last = false)
    (hgap : 1720 * p.cpu < d.cyc.toNat) :
    decTimed p true delta d = { d with
      malformed := false
      last := true
      idx := 0#4
      cyc := delta
      vars := StepVars.rest } := by
  simp [decTimed, hlast, hgap]

/-- 1720 · CPU and one more cycle fit a counter (R8). -/
theorem maxGap_lt_cycMax : 1720 * Config.params.cpu < cycMax := by
  have h := Config.params_cpu_le
  rw [cycMax]
  omega

/-- Settles O56: the counter reads l at the rise, within MAX_GAP_C. -/
theorem lowSegmentIsStoredAsChannel : Obligations.LowSegmentIsStoredAsChannel := by
  intro s l hidx hrun hkick hlast hl hgap
  have hcyc : (satW l).toNat = l := by
    have h := maxGap_lt_cycMax
    rw [satW_toNat, Int.toNat_natCast]
    omega
  obtain ⟨event, hrun⟩ := runActs_low_then_rise s l hrun hkick hlast hl
  have hwrap : wrappedIdx (decLow event (satW l) s.dec) = s.dec.idx.toNat := by
    rw [wrappedIdx_of_lt (by rw [decLow_idx]; exact wrappedIdx_lt _), decLow_idx, wrappedIdx_of_lt hidx]
  have hchan := decTimed_of_rise_chan Config.params 1#32 (decLow event (satW l) s.dec) rfl (hcyc.trans_le hgap)
  rw [hrun, hchan, hwrap, setChannel_eq_set _ _ _ hidx]
  simp [decLow, hcyc, stepVarsRest_eq]

/-- Settles O57: the counter reads past MAX_GAP_C at the rise, saturated or not. -/
theorem longLowResynchronises : Obligations.LongLowResynchronises := by
  intro s l hrun hkick hlast hgap
  have hcyc : 1720 * Config.params.cpu < (satW l).toNat := by
    have h := maxGap_lt_cycMax
    rw [satW_toNat, Int.toNat_natCast]
    omega
  obtain ⟨event, hrun⟩ := runActs_low_then_rise s l hrun hkick hlast (by omega)
  rw [hrun, decTimed_of_rise_gap Config.params 1#32 (decLow event (satW l) s.dec) rfl hcyc]
  rfl

/-! ## Reads and writes of the host -/

/-- A message of at most 24 bytes is in range at every MSG_MAX (R8, R72). -/
theorem msgOk_of_len_le {m : Message} (hlen : m.len ≤ 24) (hexact : m.len = m.data.length) :
    msgOk Config.params m = true :=
  (msgOk_iff _ _).mpr ⟨Nat.le_trans hlen Config.params_msgMax_ge, hexact⟩

/-- A SEND to an empty inbound queue always has room (R8, R193). -/
theorem exec_envSendDec_of_empty (s : State) (m : Message) (hok : msgOk Config.params m = true)
    (hinq : s.dec.inq = []) : exec (.envSendDec m) s = .next (s.withDec { s.dec with inq := [m] }) := by
  have hroom : s.dec.inq.length < Config.params.qInCap := by
    rw [hinq]
    exact Config.params_qInCap_pos
  rw [exec_envSendDec, envSendDec_of_msgOk _ _ _ hok, if_pos hroom, hinq, List.nil_append]

/-- A SEND to an empty inbound queue always has room (R8, R194). -/
theorem exec_envSendEnc_of_empty (s : State) (m : Message) (hok : msgOk Config.params m = true)
    (hinq : s.enc.inq = []) : exec (.envSendEnc m) s = .next (s.withEnc { s.enc with inq := [m] }) := by
  have hroom : s.enc.inq.length < Config.params.qInCap := by
    rw [hinq]
    exact Config.params_qInCap_pos
  rw [exec_envSendEnc, envSendEnc_of_msgOk _ _ _ hok, if_pos hroom, hinq, List.nil_append]

/-- The reply to a reader (R186). -/
def replyTo (src : Endpoint) (f : Frame) : Message :=
  { src := Config.params.decPort, dst := src, len := 24, data := pack f }

/-- A service of one message with no reply queued leaves the reply to its source (R184 to R186). -/
theorem decBridgeService_of_singleton (d : DecState) (m : Message) (hinq : d.inq = [m]) (houtq : d.outq = []) :
    decBridgeService Config.params d =
      { d with kick := false, inq := [], peer := m.src, outq := [replyTo m.src d.frame] } := by
  have hroom : d.outq.length < Config.params.qOutCap := by
    rw [houtq]
    exact Config.params_qOutCap_pos
  rw [decBridgeService_eq]
  dsimp only
  rw [if_pos hroom, hinq, houtq]
  rfl

theorem exec_envRecvDec_of_cons (s : State) (m : Message) (rest : List Message) (houtq : s.dec.outq = m :: rest) :
    exec .envRecvDec s =
      .next { s.withDec { s.dec with outq := rest } with received := s.received ++ [m] } := by
  simp only [exec, execEnvRecvDec, envRecvDec, houtq, push]

/-- A signalled step with one message and no reply queued leaves the reply to its source (R134, R184). -/
theorem exec_decStep_of_signalled (s : State) (delta : Cyc) (m : Message)
    (hdelta : deltaOk Config.params delta = true) (hrun : s.dec.mode = .run) (hkick : s.dec.kick = true)
    (hinq : s.dec.inq = [m]) (houtq : s.dec.outq = []) :
    exec (.decStep delta) s = .next (s.withDec { decTimed Config.params s.pinIn delta s.dec with
      kick := false
      inq := []
      peer := m.src
      outq := [replyTo m.src (decTimed Config.params s.pinIn delta s.dec).frame] }) := by
  rw [exec_decStep_of_run s delta hdelta hrun,
    bridgeDec_of_kick _ (decTimed Config.params s.pinIn delta s.dec) hkick,
    decBridgeService_of_singleton (decTimed Config.params s.pinIn delta s.dec) m hinq houtq]

/-- The trigger byte of `host.read` (R91). -/
def readTrigger (src : Endpoint) : Message := { src := src, dst := Config.params.decPort, len := 1, data := [0#8] }

theorem msgOk_readTrigger (src : Endpoint) : msgOk Config.params (readTrigger src) = true :=
  msgOk_of_len_le (Nat.le_of_ble_eq_true rfl) rfl

/-- Settles O58: the trigger byte and the signal make the step's bridge part send one reply, which is then taken. -/
theorem hostReadReturnsOneFrame : Obligations.HostReadReturnsOneFrame := by
  intro s src hrun hinq houtq
  have hsend := exec_envSendDec_of_empty s (readTrigger src) (msgOk_readTrigger src) hinq
  have hkick := exec_envKickDec (s.withDec { s.dec with inq := [readTrigger src] })
  have hstep := exec_decStep_of_signalled (s.withDec { s.dec with inq := [readTrigger src], kick := true }) 1#32
    (readTrigger src) deltaOk_one hrun rfl rfl houtq
  exact ⟨_, (runActs_cons hsend).trans <| (runActs_cons hkick).trans <| (runActs_cons hstep).trans <|
    (runActs_cons (exec_envRecvDec_of_cons _ _ _ rfl)).trans rfl, rfl, rfl, rfl, rfl, rfl⟩

/-- A signalled step of an encoder with a legal index drains its queue, whatever its case is (R163, R189). -/
theorem exec_encStep_of_kick (s : State) (delta : Cyc) (hdelta : deltaOk Config.params delta = true)
    (hrun : s.enc.mode = .run) (hkick : s.enc.kick = true) (hidx : s.enc.idx.toNat ≤ 12) :
    ∃ t, exec (.encStep delta) s = .next t ∧
      t.enc.frame = drainedFrame Config.params s.enc.frame s.enc.inq ∧ t.enc.inq = [] ∧ t.enc.kick = false := by
  obtain ⟨c, hselect⟩ := Option.isSome_iff_exists.mp (encSelect_isSome (encEnter s.enc))
  obtain ⟨v, htake⟩ := encTake_ok Config.params c (encEnter s.enc) hselect hidx
  obtain ⟨-, -, -, hvkick, hvinq, hvframe⟩ := encTake_keeps htake
  simp only [encEnter_eq] at hvkick hvinq hvframe
  refine ⟨_, encStep_of_take hdelta hrun hselect htake, ?_⟩
  rw [encLeave_eq, bridgeEnc_of_kick _ (encTicked delta v) (hvkick.trans hkick), encBridgeService_eq]
  refine ⟨?_, rfl, rfl⟩
  rw [← hvframe, ← hvinq]
  rfl

/-- The message of `host.write` (R91). -/
def frameMessage (src : Endpoint) (f : Frame) : Message :=
  { src := src, dst := Config.params.encPort, len := 24, data := pack f }

theorem msgOk_frameMessage (src : Endpoint) (f : Frame) : msgOk Config.params (frameMessage src f) = true :=
  msgOk_of_len_le (Nat.le_refl 24) (pack_length f).symm

/-- Of a queue with the written frame alone the frame is left (R55, R200). -/
theorem drainedFrame_frameMessage (g f : Frame) (src : Endpoint) :
    drainedFrame Config.params g [frameMessage src f] = f := by
  rw [← List.nil_append [frameMessage src f],
    drainedFrame_of_last_len_24 _ _ _ _ _ rfl (pack_length f) fun _ hx => absurd hx List.not_mem_nil]
  exact unpack_pack f

/-- Settles O59: the step's bridge part applies the one message, whose 24 bytes are the frame's. -/
theorem hostWriteReplacesFrame : Obligations.HostWriteReplacesFrame := by
  intro s src f hrun hinq hidx
  have hsend := exec_envSendEnc_of_empty s (frameMessage src f) (msgOk_frameMessage src f) hinq
  have hkick := exec_envKickEnc (s.withEnc { s.enc with inq := [frameMessage src f] })
  obtain ⟨t, hstep, hframe, htinq, htkick⟩ := exec_encStep_of_kick
    (s.withEnc { s.enc with inq := [frameMessage src f], kick := true }) 1#32 deltaOk_one hrun rfl hidx
  exact ⟨t, (runActs_cons hsend).trans <| (runActs_cons hkick).trans <| (runActs_cons hstep).trans rfl,
    hframe.trans (drainedFrame_frameMessage s.enc.frame f src), htinq, htkick⟩

end Sys2Proof

/-!
PROOF. The length of a line frame (42_encoder.md R166, R250), with Δ = 1: segment by segment, the encoder waits to the
segment's last cycle and then takes the hit that begins the next one.
-/

namespace Sys2Proof
open Machine Safety

/-! ## Cycle counts as words -/

theorem cyc_toNat_ofNat {n : Nat} (h : n ≤ cycMax) : (BitVec.ofNat 32 n).toNat = n := by
  rw [cycMax] at h
  rw [BitVec.toNat_ofNat]
  omega

/-- A natural number that fits is unchanged by satW (R10). -/
theorem satW_eq_ofNat {x : Int} {n : Nat} (hx : x = n) (h : n ≤ cycMax) : satW x = BitVec.ofNat 32 n := by
  rw [hx, satW, Int.toNat_natCast, Nat.min_eq_left h]

theorem idx_toNat_ofNat {k : Nat} (h : k ≤ 12) : (BitVec.ofNat 4 k).toNat = k := by
  rw [BitVec.toNat_ofNat]
  omega

/-- FRAME_C as a numeral fits a counter (R8). -/
theorem frameC_le_cycMax : 22500 * Config.params.cpu ≤ cycMax :=
  Params.frameC_le Config.params Config.params_cpu_le

/-- A pulse and its rest take the channel's clamped value in cycles (R83, R162). -/
theorem pulse_add_restCycles (v : Chan) :
    300 * Config.params.cpu + restCycles Config.params v = clamp v.toNat * Config.params.cpu := by
  have h := Nat.mul_le_mul_right Config.params.cpu (clamp_ge v.toNat)
  rw [restCycles, Params.pulseC, Config.pulseUs]
  omega

/-- A rest lasts at least one cycle, and less than a frame. -/
theorem restCycles_bounds (v : Chan) :
    1 ≤ restCycles Config.params v ∧ restCycles Config.params v ≤ 22500 * Config.params.cpu := by
  have hpos := Config.params_cpu_pos
  have hge := Nat.mul_le_mul_right Config.params.cpu (clamp_ge v.toNat)
  have hle := Nat.mul_le_mul_right Config.params.cpu (clamp_le v.toNat)
  have hsum := pulse_add_restCycles v
  omega

/-! ## One segment -/

theorem pseudoEncRun_add (m n : Nat) : pseudoEncRun (m + n) = pseudoEncRun m ++ pseudoEncRun n :=
  List.replicate_add m n _

theorem runActs_singleton (i : Instr) (s : State) : runActs [i] s = exec i s := by
  rw [runActs]
  cases exec i s <;> rfl

/-- Steps that end before the deadline wait (R155). -/
theorem runActs_encSteps_waiting (n : Nat) (s : State) (hrun : s.enc.mode = .run) (hkick : s.enc.kick = false)
    (hbefore : s.enc.cyc.toNat + n ≤ s.enc.deadline.toNat) :
    ∃ v, runActs (pseudoEncRun n) s = .next (s.withEnc { s.enc with
      cyc := BitVec.ofNat 32 (s.enc.cyc.toNat + n), vars := v }) := by
  induction n generalizing s with
  | zero =>
    refine ⟨s.enc.vars, ?_⟩
    rw [Nat.add_zero, BitVec.ofNat_toNat, BitVec.setWidth_eq]
    rfl
  | succ n ih =>
    have hmax := cyc_le s.enc.deadline
    rw [cycMax] at hmax
    have hwait := encStepWaitsBeforeDeadline s 1#32 (Nat.le_refl 1) Config.params_latMax_pos hrun hkick (by omega)
    have hone : (1#32).toNat = 1 := rfl
    rw [hone, Nat.min_eq_left (by omega)] at hwait
    have hnext : (BitVec.ofNat 32 (s.enc.cyc.toNat + 1)).toNat = s.enc.cyc.toNat + 1 :=
      cyc_toNat_ofNat (by rw [cycMax]; omega)
    obtain ⟨v, htail⟩ := ih (s.withEnc { s.enc with
      cyc := BitVec.ofNat 32 (s.enc.cyc.toNat + 1), vars := { e := 0#32, rst := false } }) hrun hkick
      (by simp only [State.withEnc_enc, hnext]; omega)
    refine ⟨v, ?_⟩
    rw [pseudoEncRun, List.replicate_succ, runActs_cons hwait, ← pseudoEncRun, htail]
    simp only [State.withEnc_enc, hnext, State.withEnc_withEnc, Nat.add_assoc, Nat.add_comm 1 n]

/-- The encoder `u` at the first cycle of a segment of `len` cycles, at index `k` and with the sum `acc`. -/
def encSegment (level : Bool) (k acc len : Nat) (v : StepVars) (u : EncState) : EncState :=
  { u with
    level := level
    idx := BitVec.ofNat 4 k
    cyc := 1#32
    deadline := BitVec.ofNat 32 len
    acc := BitVec.ofNat 32 acc
    vars := v }

/-- The encoder at the last cycle of that segment, where the deadline is hit. -/
def encSegmentEnd (level : Bool) (k acc len : Nat) (v : StepVars) (u : EncState) : EncState :=
  { encSegment level k acc len v u with cyc := BitVec.ofNat 32 len }

/-- A segment is its waits and the hit that ends it. -/
theorem runActs_segment (s : State) (level : Bool) (k acc len : Nat) (v : StepVars) (u : EncState)
    (hrun : u.mode = .run) (hkick : u.kick = false) (hpos : 1 ≤ len) (hlen : len ≤ cycMax) :
    ∃ w, runActs (pseudoEncRun len) (s.withEnc (encSegment level k acc len v u)) =
      exec (.encStep 1#32) (s.withEnc (encSegmentEnd level k acc len w u)) := by
  obtain ⟨n, rfl⟩ := Nat.exists_eq_add_of_le hpos
  have hdeadline : (BitVec.ofNat 32 (1 + n)).toNat = 1 + n := cyc_toNat_ofNat hlen
  obtain ⟨w, hwaits⟩ := runActs_encSteps_waiting n (s.withEnc (encSegment level k acc (1 + n) v u)) hrun hkick
    hdeadline.ge
  refine ⟨w, ?_⟩
  have hlast : pseudoEncRun (1 + n) = pseudoEncRun n ++ [.encStep 1#32] := by
    rw [Nat.add_comm, pseudoEncRun_add]
    rfl
  rw [hlast, runActs_append hwaits, runActs_singleton]
  rfl

section
variable (s : State) (k acc len : Nat) (v : StepVars) (u : EncState)
  (hrun : u.mode = .run) (hkick : u.kick = false) (hpos : 1 ≤ len)
include hrun hkick hpos

/-- A rest or the padding ends with the rise of the next pulse (R156). -/
theorem runActs_low_segment (hsum : acc + len ≤ cycMax) :
    runActs (pseudoEncRun len) (s.withEnc (encSegment false k acc len v u)) =
      .next (s.withEnc (encSegment true k (acc + len) (300 * Config.params.cpu) StepVars.rest u)) := by
  have hframe := frameC_le_cycMax
  obtain ⟨w, hsegment⟩ := runActs_segment s false k acc len v u hrun hkick hpos (by omega)
  have hhit := encStepRaisesPin (s.withEnc (encSegmentEnd false k acc len w u)) 1#32 (Nat.le_refl 1)
    Config.params_latMax_pos hrun hkick (Nat.le_refl _) rfl
  rw [hsegment, hhit]
  simp only [State.withEnc_enc, State.withEnc_withEnc, encSegmentEnd, encSegment,
    cyc_toNat_ofNat (show acc ≤ cycMax by omega), cyc_toNat_ofNat (show len ≤ cycMax by omega)]
  rw [satW_eq_ofNat (n := acc + len) (by omega) hsum,
    satW_eq_ofNat (n := 300 * Config.params.cpu) (by omega) (by omega), stepVarsRest_eq]

/-- A pulse before index 12 ends with the fall that schedules the channel's rest (R157, R158). -/
theorem runActs_pulse_segment (hk : k < 12) (hlen : len ≤ cycMax) (hsum : k ≠ 0 → acc + len ≤ cycMax) :
    runActs (pseudoEncRun len) (s.withEnc (encSegment true k acc len v u)) =
      .next (s.withEnc (encSegment false (k + 1) (if k = 0 then len else acc + len)
        (restCycles Config.params u.frame[k]) StepVars.rest u)) := by
  have hframe := frameC_le_cycMax
  obtain ⟨-, hrest⟩ := restCycles_bounds (u.frame[k]'hk)
  have hidx : (BitVec.ofNat 4 k).toNat = k := idx_toNat_ofNat (by omega)
  obtain ⟨w, hsegment⟩ := runActs_segment s true k acc len v u hrun hkick hpos hlen
  have hhit := encStepSchedulesRest (s.withEnc (encSegmentEnd true k acc len w u)) 1#32 (hidx.trans_lt hk)
    (Nat.le_refl 1) Config.params_latMax_pos hrun hkick (Nat.le_refl _) rfl
  have hdeadline : satW (((300 * Config.params.cpu + restCycles Config.params (u.frame[k]'hk) : Nat) : Int) -
      300 * (Config.params.cpu : Int) - ((len : Int) - len)) =
      BitVec.ofNat 32 (restCycles Config.params (u.frame[k]'hk)) := satW_eq_ofNat (by omega) (by omega)
  rw [hsegment, hhit]
  simp only [State.withEnc_enc, State.withEnc_withEnc, encSegmentEnd, encSegment, hidx, cyc_toNat_ofNat hlen,
    ← clamp_eq_min_max, ← Nat.cast_mul, ← pulse_add_restCycles, hdeadline, stepVarsRest_eq]
  by_cases hzero : k = 0
  · rw [if_pos hzero, if_pos hzero]
  · have hsum := hsum hzero
    rw [if_neg hzero, if_neg hzero, cyc_toNat_ofNat (show acc ≤ cycMax by omega),
      satW_eq_ofNat (Nat.cast_add acc len).symm hsum]

/-- The pulse at index 12 ends with the fall that schedules the padding (R159). -/
theorem runActs_last_pulse_segment (hsum : acc + len ≤ 22500 * Config.params.cpu) :
    runActs (pseudoEncRun len) (s.withEnc (encSegment true 12 acc len v u)) =
      .next (s.withEnc (encSegment false 0 (acc + len) (22500 * Config.params.cpu - (acc + len))
        StepVars.rest u)) := by
  have hframe := frameC_le_cycMax
  obtain ⟨w, hsegment⟩ := runActs_segment s true 12 acc len v u hrun hkick hpos (by omega)
  have hhit := encStepSchedulesPadding (s.withEnc (encSegmentEnd true 12 acc len w u)) 1#32 (Nat.le_refl 1)
    Config.params_latMax_pos hrun hkick (Nat.le_refl _) rfl rfl
  have hmin : min (acc + len) 4294967295 = acc + len := Nat.min_eq_left (by rw [← cycMax]; omega)
  rw [hsegment, hhit]
  simp only [State.withEnc_enc, State.withEnc_withEnc, encSegmentEnd, encSegment,
    cyc_toNat_ofNat (show acc ≤ cycMax by omega), cyc_toNat_ofNat (show len ≤ cycMax by omega), hmin]
  rw [satW_eq_ofNat (n := acc + len) (by omega) (by omega),
    satW_eq_ofNat (n := 22500 * Config.params.cpu - (acc + len)) (by omega) (by omega), stepVarsRest_eq]

end

/-! ## The line frame -/

/-- The cycles of the first k pulses and rests of a line frame (R83). -/
def chanCyclesBefore (f : Frame) (k : Nat) : Nat :=
  ((f.toList.take k).map fun v : Chan => clamp v.toNat * Config.params.cpu).sum

theorem chanCyclesBefore_zero (f : Frame) : chanCyclesBefore f 0 = 0 := rfl

theorem chanCyclesBefore_succ (f : Frame) (k : Nat) (hk : k < 12) :
    chanCyclesBefore f (k + 1) = chanCyclesBefore f k + clamp f[k].toNat * Config.params.cpu := by
  have hlt : k < f.toList.length := by rwa [Vector.length_toList]
  rw [chanCyclesBefore, List.take_succ_eq_append_getElem hlt, List.map_append, List.sum_append, chanCyclesBefore]
  simp

theorem chanCyclesBefore_all (f : Frame) : chanCyclesBefore f 12 = chanCycles Config.params f := by
  rw [chanCyclesBefore, chanCycles, List.take_of_length_le (by rw [Vector.length_toList])]

theorem chanCyclesBefore_le (f : Frame) (k : Nat) : chanCyclesBefore f k ≤ chanCycles Config.params f :=
  ((List.take_sublist k f.toList).map _).sum_le_sum fun _ _ => Nat.zero_le _

/-- From the first cycle of pulse 0, the first k pulses and rests lead to the first cycle of pulse k, with their cycles
in the sum: the fall of pulse 0 seeds it, whatever it was (R157). -/
theorem runActs_first_channels (s : State) (acc : Nat) (v : StepVars) (u : EncState) (hrun : u.mode = .run)
    (hkick : u.kick = false) (hfit : chanCycles Config.params u.frame ≤ cycMax) (k : Nat) (hk : k ≤ 12) :
    ∃ acc' v', (k ≠ 0 → acc' = chanCyclesBefore u.frame k) ∧
      runActs (pseudoEncRun (chanCyclesBefore u.frame k))
        (s.withEnc (encSegment true 0 acc (300 * Config.params.cpu) v u)) =
      .next (s.withEnc (encSegment true k acc' (300 * Config.params.cpu) v' u)) := by
  induction k with
  | zero => exact ⟨acc, v, fun h => absurd rfl h, rfl⟩
  | succ k ih =>
    have hlt : k < 12 := hk
    obtain ⟨acc', v', hacc, hprevious⟩ := ih (by omega)
    have hcpu := Config.params_cpu_pos
    have hsplit := pulse_add_restCycles (u.frame[k]'hlt)
    obtain ⟨hrest, -⟩ := restCycles_bounds (u.frame[k]'hlt)
    have hnext := chanCyclesBefore_succ u.frame k hlt
    have hle := chanCyclesBefore_le u.frame (k + 1)
    have hpulse := runActs_pulse_segment s k acc' (300 * Config.params.cpu) v' u hrun hkick (by omega) hlt (by omega)
      (fun h => by rw [hacc h]; omega)
    have hsum : (if k = 0 then 300 * Config.params.cpu else acc' + 300 * Config.params.cpu) =
        chanCyclesBefore u.frame k + 300 * Config.params.cpu := by
      by_cases hzero : k = 0
      · rw [if_pos hzero, hzero, chanCyclesBefore_zero, Nat.zero_add]
      · rw [if_neg hzero, hacc hzero]
    rw [hsum] at hpulse
    have hlow := runActs_low_segment s (k + 1) (chanCyclesBefore u.frame k + 300 * Config.params.cpu)
      (restCycles Config.params u.frame[k]) StepVars.rest u hrun hkick hrest (by omega)
    refine ⟨_, StepVars.rest, fun _ => rfl, ?_⟩
    rw [hnext, ← hsplit, pseudoEncRun_add, runActs_append hprevious, pseudoEncRun_add, runActs_append hpulse, hlow,
      Nat.add_assoc]

/-- The channels, the 13th pulse and a padding of at least one cycle are FRAME_C, and lead back to pulse 0. -/
theorem runActs_lineFrame (s : State) (acc : Nat) (v : StepVars) (u : EncState) (hrun : u.mode = .run)
    (hkick : u.kick = false)
    (hpad : 300 * Config.params.cpu + chanCycles Config.params u.frame + 1 ≤ 22500 * Config.params.cpu) :
    runActs (pseudoEncRun (22500 * Config.params.cpu))
        (s.withEnc (encSegment true 0 acc (300 * Config.params.cpu) v u)) =
      .next (s.withEnc (encSegment true 0 (22500 * Config.params.cpu) (300 * Config.params.cpu)
        StepVars.rest u)) := by
  have hframe := frameC_le_cycMax
  have hcpu := Config.params_cpu_pos
  obtain ⟨acc', v', hacc, hchannels⟩ := runActs_first_channels s acc v u hrun hkick (by omega) 12 (Nat.le_refl 12)
  rw [hacc (by decide), chanCyclesBefore_all] at hchannels
  have hpulse := runActs_last_pulse_segment s (chanCycles Config.params u.frame) (300 * Config.params.cpu) v' u hrun
    hkick (by omega) (by omega)
  have hlow := runActs_low_segment s 0 (chanCycles Config.params u.frame + 300 * Config.params.cpu)
    (22500 * Config.params.cpu - (chanCycles Config.params u.frame + 300 * Config.params.cpu)) StepVars.rest u hrun
    hkick (by omega) (by omega)
  have htotal : 22500 * Config.params.cpu = chanCycles Config.params u.frame + (300 * Config.params.cpu +
      (22500 * Config.params.cpu - (chanCycles Config.params u.frame + 300 * Config.params.cpu))) := by omega
  have hsum : chanCycles Config.params u.frame + 300 * Config.params.cpu +
      (22500 * Config.params.cpu - (chanCycles Config.params u.frame + 300 * Config.params.cpu)) =
      22500 * Config.params.cpu := by omega
  rw [hsum] at hlow
  rw [htotal, pseudoEncRun_add, runActs_append hchannels, pseudoEncRun_add, runActs_append hpulse, hlow, ← htotal]

/-- An encoder that is at the first cycle of a segment differs from it in the sum and the step variables alone. -/
theorem encSegment_of_first_cycle {u : EncState} (hlevel : u.level = true) (hidx : u.idx = 0#4)
    (hcyc : u.cyc = 1#32) (hdeadline : u.deadline.toNat = 300 * Config.params.cpu) (acc : Nat) (v : StepVars) :
    encSegment true 0 acc (300 * Config.params.cpu) v u = { u with acc := BitVec.ofNat 32 acc, vars := v } := by
  have hword : BitVec.ofNat 32 (300 * Config.params.cpu) = u.deadline := by
    rw [← hdeadline, BitVec.ofNat_toNat, BitVec.setWidth_eq]
  rw [encSegment, hword, ← hcyc, ← hlevel, ← hidx]

/-- Settles O60: the state is at the first cycle of pulse 0, and so is the one a line frame later. -/
theorem lineFrameLastsFrameC : Obligations.LineFrameLastsFrameC := by
  intro s hrun hkick hlevel hidx hcyc hdeadline hpad
  have hline := runActs_lineFrame s s.enc.acc.toNat s.enc.vars s.enc hrun hkick hpad
  rw [encSegment_of_first_cycle hlevel hidx hcyc hdeadline, encSegment_of_first_cycle hlevel hidx hcyc hdeadline,
    BitVec.ofNat_toNat, BitVec.setWidth_eq] at hline
  exact hline

end Sys2Proof
